-- ==== Sys2Proof/Word.lean ====
section
/-! DEFINITION. The word types of HUFFCORE (spec/00_scope.md R5, spec/30_encoding.md R82, R84). Every value is unsigned
(R7): arithmetic is done on `toNat` and narrowed where a rule stores a result. -/

namespace Sys2Proof

/-- A command or response word, 64 bits (`CMD_W`, `RSP_W` of R5). -/
abbrev Word := BitVec 64

/-- One byte, or one symbol of the 256-symbol alphabet (`SYM_W` of R5). -/
abbrev Byte := BitVec 8

/-- The DATA field of a response and the IMM field of a command, 40 bits (R82, R84). -/
abbrev Data := BitVec 40

/-- A frequency count, the total of all counts, or a node weight, 32 bits (`FREQ_W`, `WEIGHT_W` of R5). -/
abbrev Count := BitVec 32

/-- A number of bitstream bits or of output bytes, 40 bits (`BITCNT_W` of R5). -/
abbrev BitCount := BitVec 40

/-- An index of the node arena, 9 bits (`IDX_W` of R5). -/
abbrev NodeIdx := BitVec 9

/-- The storage of one code, 255 bits (spec/10_state.md R49). -/
abbrev CodeBits := BitVec 255

end Sys2Proof
end

