-- ==== Sys2Proof/Config.lean ====
section
/-! DEFINITION. The implementation parameters of spec/00_scope.md R5. All but `OUTBUF_CAP` are fixed (R6). -/

namespace Sys2Proof

/-- The number of symbols (R5: `ALPHABET`). -/
abbrev Config.alphabet : Nat := 256

/-- The entries of the node arena (R5: `NODE_CAP`). -/
abbrev Config.nodeCap : Nat := 511

/-- The longest code in bits (R5: `MAXLEN`). -/
abbrev Config.maxLen : Nat := 255

/-- The largest value of TOTAL and of a frequency counter (R5: `FREQ_W` = 32; R120, R121). -/
abbrev Config.maxTotal : Nat := 2 ^ 32 - 1

/-- The largest value of ENC_BITS (R5: `BITCNT_W` = 40; R180). -/
abbrev Config.maxBits : Nat := 2 ^ 40 - 1

/-- DESIGN CHOICE (log 4). A FREE VALUE: the raw value of the OPEN parameter `OUTBUF_CAP` (R5, R6). Nothing in Lean can
evaluate it. -/
opaque Config.outbufCapParam : BitVec 40

/-- The capacity of the output buffer in bytes, any value with 1 ≤ `OUTBUF_CAP` ≤ 2^40 − 1 (R5): the free value, with 0,
which R5 excludes, read as 1. -/
def Config.outbufCap : BitVec 40 :=
  if Config.outbufCapParam = 0#40 then 1#40 else Config.outbufCapParam

end Sys2Proof
end

