-- ==== Sys2Proof/Syntax.lean ====
section
/-! DEFINITION. The commands of HUFF-CMD version 1 (spec/30_encoding.md R90) with their operands (R97), one constructor per
row of spec/opcode_table.json, and the seven formats of R83. -/

namespace Sys2Proof

/-- The commands (R90). Every operand is an unsigned field of exactly the width R97 gives it, so an operand that does not
fit its field cannot be written down. -/
inductive Instr where
  /-- NOP, spec/45_control.md R220. -/
  | nop
  /-- CLR, spec/45_control.md R221. -/
  | clr
  /-- SESS, spec/45_control.md R222. -/
  | sess
  /-- RDREG, spec/45_control.md R223: `reg` is IMM[4:0]. -/
  | rdreg (reg : BitVec 5)
  /-- FACC, spec/40_frequency.md R120: `sym` is SYM. -/
  | facc (sym : Byte)
  /-- FSET, spec/40_frequency.md R121: `sym` is SYM, `value` is IMM[31:0]. -/
  | fset (sym : Byte) (value : Count)
  /-- RDFREQ, spec/40_frequency.md R122: `sym` is SYM. -/
  | rdfreq (sym : Byte)
  /-- BUILD, spec/41_tree.md R140. -/
  | build
  /-- RDNODE, spec/41_tree.md R145: `sel` is IMM[9], `index` is IMM[8:0]. -/
  | rdnode (sel : Bool) (index : NodeIdx)
  /-- GENC, spec/42_codes.md R160. -/
  | genc
  /-- RDCODE, spec/42_codes.md R161: `sym` is SYM, `chunk` is IMM[2:0]. -/
  | rdcode (sym : Byte) (chunk : BitVec 3)
  /-- ENCB, spec/43_packer.md R180: `sym` is SYM. -/
  | encb (sym : Byte)
  /-- ENCF, spec/43_packer.md R181. -/
  | encf
  /-- DECS, spec/44_unpacker.md R200: `count` is IMM[39:0]. -/
  | decs (count : BitCount)
  /-- DECB, spec/44_unpacker.md R201: `byte` is SYM. -/
  | decb (byte : Byte)
  /-- DECF, spec/44_unpacker.md R202. -/
  | decf
  /-- RDOUT, spec/45_control.md R224. -/
  | rdout
  deriving DecidableEq, Repr

/-- The command formats (R83): which fields of the word are operands. -/
inductive Format where
  /-- No operand. -/
  | n
  /-- SYM is a symbol or a byte. -/
  | s
  /-- SYM is a symbol, IMM[31:0] a value. -/
  | sv
  /-- SYM is a symbol, IMM[2:0] a chunk index. -/
  | sw
  /-- IMM[4:0] is a register number. -/
  | r
  /-- IMM[9] is a selector, IMM[8:0] a node index. -/
  | x
  /-- IMM[39:0] is a count. -/
  | l
  deriving DecidableEq, Repr

/-- The format of each command (R83, column "used by"; R90). -/
def Instr.format : Instr → Format
  | .nop => .n
  | .clr => .n
  | .sess => .n
  | .rdreg _ => .r
  | .facc _ => .s
  | .fset _ _ => .sv
  | .rdfreq _ => .s
  | .build => .n
  | .rdnode _ _ => .x
  | .genc => .n
  | .rdcode _ _ => .sw
  | .encb _ => .s
  | .encf => .n
  | .decs _ => .l
  | .decb _ => .s
  | .decf => .n
  | .rdout => .n

end Sys2Proof
end

