-- ==== Sys2Proof/WellFormed.lean ====
section
/-! DEFINITION. When a command word is well formed: the four fields of spec/30_encoding.md R82 and the zero fields R83's
table asks of each format, written from that table. (The operand ranges of R97 are held by the types of `Instr`.) Decode.lean
is written from spec/opcode_table.json's match and mask columns instead; the two are compared by a law and by a statement. -/

namespace Sys2Proof

/-- The fields of a command word (R82). -/
structure Fields where
  /-- OP, bits [63:56]. -/
  op : BitVec 8
  /-- SYM, bits [55:48]. -/
  sym : BitVec 8
  /-- RSV, bits [47:40]. -/
  rsv : BitVec 8
  /-- IMM, bits [39:0]. -/
  imm : BitVec 40
  deriving DecidableEq, Repr

/-- The fields of a word (R82). -/
def Fields.ofWord (w : Word) : Fields where
  op := w.extractLsb' 56 8
  sym := w.extractLsb' 48 8
  rsv := w.extractLsb' 40 8
  imm := w.extractLsb' 0 40

/-- RSV is 0 for every opcode (R82). -/
def Fields.rsvOk (f : Fields) : Bool :=
  f.rsv == 0#8

/-- SYM is 0 where the format does not use it (R83, column SYM). -/
def Fields.symOk (fmt : Format) (f : Fields) : Bool :=
  match fmt with
  | .n | .r | .x | .l => f.sym == 0#8
  | .s | .sv | .sw => true

/-- The bits of IMM the format does not use are 0 (R83, column IMM): IMM is below 2 to the number of its free bits. -/
def Fields.immOk (fmt : Format) (f : Fields) : Bool :=
  match fmt with
  | .n | .s => f.imm == 0#40
  | .sv => decide (f.imm.toNat < 2 ^ 32)
  | .sw => decide (f.imm.toNat < 2 ^ 3)
  | .r => decide (f.imm.toNat < 2 ^ 5)
  | .x => decide (f.imm.toNat < 2 ^ 10)
  | .l => true

/-- Every bit the format requires zero is 0 (R83, R92). -/
def Fields.wellFormed (fmt : Format) (f : Fields) : Bool :=
  f.rsvOk && f.symOk fmt && f.immOk fmt

/-- The format of an opcode value, none for the 239 illegal values (R90, R91). -/
def Format.ofOp (op : BitVec 8) : Option Format :=
  match op.toNat with
  | 0x00 | 0x01 | 0x02 | 0x20 | 0x30 | 0x41 | 0x52 | 0x60 => some .n
  | 0x10 | 0x12 | 0x40 | 0x51 => some .s
  | 0x11 => some .sv
  | 0x31 => some .sw
  | 0x03 => some .r
  | 0x21 => some .x
  | 0x50 => some .l
  | _ => none

end Sys2Proof
end

