-- ==== Sys2Proof/Decode.lean ====
section
/-! DEFINITION. Decoding a command word, total on every 64-bit word and refusing by name, written from
spec/opcode_table.json and spec/30_encoding.md R88, R90 to R92, R97; then the encoder from R82, R83 and R97. HUFFCORE never
splits a word into bytes (spec/20_memory.md R64), so the decoder reads whole words. -/

namespace Sys2Proof

/-- Why a word is no command (R88, in the order of its checks). Both are answered by a rejection response (R86). -/
inductive Undecoded where
  /-- OP is not an opcode of R90 (R91): R_OPCODE. -/
  | opcode
  /-- A bit the format requires zero is 1 (R92): R_FIELD. -/
  | field
  deriving DecidableEq, Repr

/-- One row of spec/opcode_table.json: a word is the row's when `word &&& mask = pattern`; `operands` takes the fields. -/
structure OpcodeRow where
  pattern : Word
  mask : Word
  operands : Word → Instr

/-! ## Operand fields (R97) -/

/-- The symbol or byte operand, `cmd.SYM` (R97). -/
def wordSym (w : Word) : Byte := w.extractLsb' 48 8

/-- FSET's value, `cmd.IMM[31:0]` (R97). -/
def wordValue (w : Word) : Count := w.extractLsb' 0 32

/-- RDCODE's chunk index, `cmd.IMM[2:0]` (R97). -/
def wordChunk (w : Word) : BitVec 3 := w.extractLsb' 0 3

/-- RDREG's register number, `cmd.IMM[4:0]` (R97). -/
def wordReg (w : Word) : BitVec 5 := w.extractLsb' 0 5

/-- RDNODE's node index, `cmd.IMM[8:0]` (R97). -/
def wordIndex (w : Word) : NodeIdx := w.extractLsb' 0 9

/-- RDNODE's selector, `cmd.IMM[9]` (R97). -/
def wordSel (w : Word) : Bool := w.getLsbD 9

/-- DECS's count, `cmd.IMM[39:0]` (R97). -/
def wordCount (w : Word) : BitCount := w.extractLsb' 0 40

/-- The opcode field OP (R82). -/
def wordOp (w : Word) : BitVec 8 := w.extractLsb' 56 8

/-- spec/opcode_table.json, row by row (R90). -/
def opcodeTable : List OpcodeRow := [
  { pattern := 0x0000000000000000#64, mask := 0xFFFFFFFFFFFFFFFF#64, operands := fun _ => .nop },
  { pattern := 0x0100000000000000#64, mask := 0xFFFFFFFFFFFFFFFF#64, operands := fun _ => .clr },
  { pattern := 0x0200000000000000#64, mask := 0xFFFFFFFFFFFFFFFF#64, operands := fun _ => .sess },
  { pattern := 0x0300000000000000#64, mask := 0xFFFFFFFFFFFFFFE0#64, operands := fun w => .rdreg (wordReg w) },
  { pattern := 0x1000000000000000#64, mask := 0xFF00FFFFFFFFFFFF#64, operands := fun w => .facc (wordSym w) },
  { pattern := 0x1100000000000000#64, mask := 0xFF00FFFF00000000#64,
    operands := fun w => .fset (wordSym w) (wordValue w) },
  { pattern := 0x1200000000000000#64, mask := 0xFF00FFFFFFFFFFFF#64, operands := fun w => .rdfreq (wordSym w) },
  { pattern := 0x2000000000000000#64, mask := 0xFFFFFFFFFFFFFFFF#64, operands := fun _ => .build },
  { pattern := 0x2100000000000000#64, mask := 0xFFFFFFFFFFFFFC00#64,
    operands := fun w => .rdnode (wordSel w) (wordIndex w) },
  { pattern := 0x3000000000000000#64, mask := 0xFFFFFFFFFFFFFFFF#64, operands := fun _ => .genc },
  { pattern := 0x3100000000000000#64, mask := 0xFF00FFFFFFFFFFF8#64,
    operands := fun w => .rdcode (wordSym w) (wordChunk w) },
  { pattern := 0x4000000000000000#64, mask := 0xFF00FFFFFFFFFFFF#64, operands := fun w => .encb (wordSym w) },
  { pattern := 0x4100000000000000#64, mask := 0xFFFFFFFFFFFFFFFF#64, operands := fun _ => .encf },
  { pattern := 0x5000000000000000#64, mask := 0xFFFFFF0000000000#64, operands := fun w => .decs (wordCount w) },
  { pattern := 0x5100000000000000#64, mask := 0xFF00FFFFFFFFFFFF#64, operands := fun w => .decb (wordSym w) },
  { pattern := 0x5200000000000000#64, mask := 0xFFFFFFFFFFFFFFFF#64, operands := fun _ => .decf },
  { pattern := 0x6000000000000000#64, mask := 0xFFFFFFFFFFFFFFFF#64, operands := fun _ => .rdout } ]

/-- The first two checks of R88: the opcode, then the zero bits of its format. -/
def decode (w : Word) : Except Undecoded Instr :=
  match opcodeTable.find? (fun row => wordOp row.pattern == wordOp w) with
  | none => .error .opcode
  | some row => if w &&& row.mask = row.pattern then .ok (row.operands w) else .error .field

/-- What the decoder reads from the opcode table's word `w` of `nbits` bits. A command is one 64-bit word (R94), so the
table's bit numbers are the word's own, and every bit above `nbits` is 0. -/
def decodeTableWord (nbits w : Nat) : Option Instr :=
  match decode (BitVec.ofNat 64 (w % 2 ^ nbits)) with
  | .ok i => some i
  | .error _ => none

/-! ## The encoder -/

/-- A command word from its four fields (R82). -/
def cmdWord (op sym rsv : BitVec 8) (imm : BitVec 40) : Word :=
  op ++ sym ++ rsv ++ imm

/-- The word of a command (R82, R83, R90, R97). -/
def encode : Instr → Word
  | .nop => cmdWord 0x00#8 0#8 0#8 0#40
  | .clr => cmdWord 0x01#8 0#8 0#8 0#40
  | .sess => cmdWord 0x02#8 0#8 0#8 0#40
  | .rdreg reg => cmdWord 0x03#8 0#8 0#8 (0#35 ++ reg)
  | .facc sym => cmdWord 0x10#8 sym 0#8 0#40
  | .fset sym value => cmdWord 0x11#8 sym 0#8 (0#8 ++ value)
  | .rdfreq sym => cmdWord 0x12#8 sym 0#8 0#40
  | .build => cmdWord 0x20#8 0#8 0#8 0#40
  | .rdnode sel index => cmdWord 0x21#8 0#8 0#8 (0#30 ++ BitVec.ofBool sel ++ index)
  | .genc => cmdWord 0x30#8 0#8 0#8 0#40
  | .rdcode sym chunk => cmdWord 0x31#8 sym 0#8 (0#37 ++ chunk)
  | .encb sym => cmdWord 0x40#8 sym 0#8 0#40
  | .encf => cmdWord 0x41#8 0#8 0#8 0#40
  | .decs count => cmdWord 0x50#8 0#8 0#8 count
  | .decb byte => cmdWord 0x51#8 byte 0#8 0#40
  | .decf => cmdWord 0x52#8 0#8 0#8 0#40
  | .rdout => cmdWord 0x60#8 0#8 0#8 0#40

end Sys2Proof
end

