-- ==== Sys2Proof/Machine/State.lean ====
section
/-! DEFINITION. The state of HUFFCORE (spec/10_state.md R20 to R50), its reset value (R53), and the reasons a step can stop.
The internal memories are lists of (index, entry) pairs in one canonical form (Machine/Ops.lean, `Memory`). -/

namespace Sys2Proof.Machine

/-- PHASE, the operating phase (R23). The values 7 to 15 are never held, so they have no constructor (log 8). -/
inductive Phase where
  /-- 0: the frequency table may be loaded; no tree. -/
  | idle
  /-- 1: a tree is built and no code table is valid. -/
  | built
  /-- 2: a tree and its code table are valid. -/
  | coded
  /-- 3: an encode session has taken at least one symbol. -/
  | encoding
  /-- 4: a decode session is open. -/
  | decoding
  /-- 5: a session has ended normally. -/
  | done
  /-- 6: a fatal error ended the session. -/
  | error
  deriving DecidableEq, Repr

/-- SHAPE, the shape of the current tree (R25). -/
inductive Shape where
  /-- 0: no tree built since the last reset or CLR. -/
  | none
  /-- 1: the total frequency was 0. -/
  | absent
  /-- 2: exactly one symbol has a non-zero frequency. -/
  | single
  /-- 3: two or more symbols. -/
  | general
  deriving DecidableEq, Repr

/-- One entry of the node arena (R47). -/
structure Node where
  /-- A leaf, or an internal node. -/
  leaf : Bool
  /-- The symbol of a leaf; 0 for an internal node. -/
  sym : Byte
  /-- The leaf's frequency, or the sum of the children's weights. -/
  weight : Count
  /-- The child reached on bit 0; 0 for a leaf. -/
  left : NodeIdx
  /-- The child reached on bit 1; 0 for a leaf. -/
  right : NodeIdx
  deriving DecidableEq, Repr

/-- What the host does at the command and response ports and at `rst` (spec/30_encoding.md R80; log 1, log 2, log 3). -/
inductive HostAct where
  /-- The host offers a command word: `cmd_valid = 1`, `cmd_data = w`. -/
  | offer (w : Word)
  /-- The host accepts the response that is offered: `rsp_ready = 1`. -/
  | take
  /-- The host asserts `rst`. -/
  | rst
  deriving DecidableEq, Repr

/-- The two ports (spec/30_encoding.md R80, R81) and the run's observation (spec/00_scope.md R13). They are the input and the
output of a step, not state of HUFFCORE (R20); Host.Core's step takes no argument, so they stand here (log 1). -/
structure Port where
  /-- The host's coming acts, the next first. -/
  host : List HostAct
  /-- The response offered and not yet accepted; none is `rsp_valid = 0`. -/
  rsp : Option Word
  /-- The responses the host has accepted, oldest first. -/
  sent : List Word
  deriving DecidableEq, Repr

/-- The state of HUFFCORE (R20). ID is a constant with no storage (R44; `State.readReg` gives it, log 12). -/
structure State where
  /-- PHASE (R23). -/
  phase : Phase
  /-- CV, code table valid (R24). -/
  cv : Bool
  /-- SHAPE (R25). -/
  shape : Shape
  /-- ERRCODE, 8 bits (R26). -/
  errcode : BitVec 8
  /-- TOTAL, 32 bits (R27). -/
  total : Count
  /-- NLEAVES, 9 bits (R28). -/
  nleaves : BitVec 9
  /-- NNODES, 10 bits (R29). -/
  nnodes : BitVec 10
  /-- ROOT, 9 bits (R30). -/
  root : NodeIdx
  /-- ENC_BITS, 40 bits (R31). -/
  encBits : BitCount
  /-- ACC, 8 bits (R32). -/
  acc : BitVec 8
  /-- ACCN, 3 bits (R33). -/
  accn : BitVec 3
  /-- DEC_TARGET, 40 bits (R34). -/
  decTarget : BitCount
  /-- DEC_CONSUMED, 40 bits (R35). -/
  decConsumed : BitCount
  /-- WALK, 9 bits (R36). -/
  walk : NodeIdx
  /-- OUTLEN, 40 bits (R37). -/
  outlen : BitCount
  /-- RDPTR, 40 bits (R38). -/
  rdptr : BitCount
  /-- OUTCAP, the read-only constant OUTBUF_CAP of this part (R43). -/
  outcap : BitCount
  /-- FREQ, 256 entries (R46). -/
  freq : List (Nat × Count)
  /-- NODE, 511 entries (R47). -/
  node : List (Nat × Node)
  /-- CLEN, 256 entries of 8 bits (R48). -/
  clen : List (Nat × BitVec 8)
  /-- CBITS, 256 entries of 255 bits (R49). -/
  cbits : List (Nat × CodeBits)
  /-- OUTBUF, OUTBUF_CAP bytes (R50). -/
  outbuf : List Host.Cell
  /-- The ports: the model's own input and output (log 1). -/
  port : Port
  deriving DecidableEq, Repr

/-- Why the model stops. HUFFCORE itself never stops (spec/60_exceptions.md R240): both faults stand only for states that no
command sequence reaches, where the spec gives no effect (log 6). -/
inductive Fault where
  /-- Raised by RDNODE, GENC and DECB when they would read NODE[511], and by `emit` (ENCB, ENCF, DECB) and RDOUT when they
  would access OUTBUF at or beyond OUTBUF_CAP: entries that do not exist (R47, R50). Safe. -/
  | noSuchEntry
  /-- Raised by GENC when the walk from ROOT passes more than MAXLEN = 255 edges without meeting a leaf: the tree is none
  that BUILD makes (spec/42_codes.md R163), and its codes do not fit CLEN and CBITS. Safe. -/
  | walkTooLong
  deriving DecidableEq, Repr

/-- Why the model gives an instruction no meaning. -/
inductive Refusal where
  /-- Raised by an arm of `exec` for an instruction the model does not cover; no arm raises it. Safe. -/
  | notModelled (mnemonic : String)
  deriving DecidableEq, Repr

/-- The machine right after reset (R53). NODE, CLEN, CBITS and OUTBUF are unspecified there and unreadable (R271); nothing
is listed, so every entry reads as zero (DESIGN CHOICE, log 5). No host act is pending and no response is offered (log 1). -/
def State.reset : State where
  phase := .idle
  cv := false
  shape := .none
  errcode := 0x00#8
  total := 0#32
  nleaves := 0#9
  nnodes := 0#10
  root := 0#9
  encBits := 0#40
  acc := 0#8
  accn := 0#3
  decTarget := 0#40
  decConsumed := 0#40
  walk := 0#9
  outlen := 0#40
  rdptr := 0#40
  outcap := Config.outbufCap
  freq := []
  node := []
  clen := []
  cbits := []
  outbuf := []
  port := { host := [], rsp := none, sent := [] }

end Sys2Proof.Machine
end

