-- ==== Sys2Proof/Machine/Flags.lean ====
section
/-! DEFINITION. The status codes, the register views STATUS and ACCSTAT, and the response words. HUFFCORE has no ALU flags
(spec/10_state.md R45): these are all its status bits. -/

namespace Sys2Proof.Machine

/-- The encoding of PHASE (R23). -/
def Phase.bits : Phase → BitVec 4
  | .idle => 0#4
  | .built => 1#4
  | .coded => 2#4
  | .encoding => 3#4
  | .decoding => 4#4
  | .done => 5#4
  | .error => 6#4

/-- The encoding of SHAPE (R25). -/
def Shape.bits : Shape → BitVec 2
  | .none => 0#2
  | .absent => 1#2
  | .single => 2#2
  | .general => 3#2

/-- The fatal errors (spec/60_exceptions.md R241). E_DEC_NULLCHILD (0x12) is reserved and never raised, so it has no
constructor (log 11). -/
inductive FatalCode where
  /-- E_ENC_NOCODE, 0x01: ENCB of a symbol with no code. -/
  | encNoCode
  /-- E_DEC_SHORT, 0x10: DECF with fewer bits given than `dataBits`. -/
  | decShort
  /-- E_DEC_INCOMPLETE, 0x11: DECF with the walk mid-path. -/
  | decIncomplete
  /-- E_FREQ_OVF, 0x20: TOTAL would exceed 2^32 − 1. -/
  | freqOvf
  /-- E_OUT_OVF, 0x21: a byte must be added to a full OUTBUF. -/
  | outOvf
  /-- E_BITS_OVF, 0x22: ENC_BITS would exceed 2^40 − 1. -/
  | bitsOvf
  deriving DecidableEq, Repr

/-- The rejections (R241). -/
inductive RejectCode where
  /-- R_OPCODE, 0x80. -/
  | opcode
  /-- R_FIELD, 0x81. -/
  | field
  /-- R_PHASE, 0x82. -/
  | phase
  /-- R_RANGE, 0x83. -/
  | range
  /-- R_EMPTY, 0x84. -/
  | empty
  deriving DecidableEq, Repr

/-- The status code of a fatal error (R241). -/
def FatalCode.bits : FatalCode → BitVec 8
  | .encNoCode => 0x01#8
  | .decShort => 0x10#8
  | .decIncomplete => 0x11#8
  | .freqOvf => 0x20#8
  | .outOvf => 0x21#8
  | .bitsOvf => 0x22#8

/-- The status code of a rejection (R241). -/
def RejectCode.bits : RejectCode → BitVec 8
  | .opcode => 0x80#8
  | .field => 0x81#8
  | .phase => 0x82#8
  | .range => 0x83#8
  | .empty => 0x84#8

/-- The status code OK (R241). -/
def statusOk : BitVec 8 := 0x00#8

/-- CV as one bit (R24). -/
def State.cvBit (s : State) : BitVec 1 := BitVec.ofBool s.cv

/-- The STATUS view (R39): {24'b0, ERRCODE[7:0], 1'b0, CV, SHAPE[1:0], PHASE[3:0]}. -/
def State.statusView (s : State) : Data :=
  0#24 ++ s.errcode ++ 0#1 ++ s.cvBit ++ s.shape.bits ++ s.phase.bits

/-- The ACCSTAT view (R40): {24'b0, ACC[7:0], 5'b0, ACCN[2:0]}. -/
def State.accstatView (s : State) : Data :=
  0#24 ++ s.acc ++ 0#5 ++ s.accn

/-- A response word (spec/30_encoding.md R84): {STATUS, PHASE, 12'b0, DATA}. -/
def rspWord (status : BitVec 8) (phase : Phase) (data : Data) : Word :=
  status ++ phase.bits ++ 0#12 ++ data

/-- The STATUS field of a response word (R84). -/
def rspStatus (w : Word) : BitVec 8 := w.extractLsb' 56 8

/-- The PHASE field of a response word (R84). -/
def rspPhase (w : Word) : BitVec 4 := w.extractLsb' 52 4

/-- The reserved field of a response word (R84). -/
def rspReserved (w : Word) : BitVec 12 := w.extractLsb' 40 12

/-- The DATA field of a response word (R84). -/
def rspData (w : Word) : Data := w.extractLsb' 0 40

end Sys2Proof.Machine
end

