-- ==== Sys2Proof/Machine/Operands.lean ====
section
/-! DEFINITION. The memories' named reads, the register views by number and the data layouts of the read commands: every form
in which a command reads a value (spec/20_memory.md R60, R61). The operand fields of the command word itself (R97) are taken by
Decode.lean. -/

namespace Sys2Proof.Machine

/-! ## Reading a memory -/

/-- Entry `a` of a memory whose unlisted entries read as `d`. -/
def Memory.read {α : Type} (d : α) : List (Nat × α) → Nat → α
  | [], _ => d
  | (k, v) :: m, a => if k = a then v else Memory.read d m a

/-- What an unlisted NODE entry reads as (log 5). -/
def Node.blank : Node where
  leaf := false
  sym := 0#8
  weight := 0#32
  left := 0#9
  right := 0#9

/-- FREQ[s] (R46); an unlisted entry is 0, the reset value of R53. -/
def State.freqAt (s : State) (sym : Byte) : Count :=
  Memory.read 0#32 s.freq sym.toNat

/-- CLEN[s] (R48). -/
def State.clenAt (s : State) (sym : Byte) : BitVec 8 :=
  Memory.read 0#8 s.clen sym.toNat

/-- CBITS[s] (R49). -/
def State.cbitsAt (s : State) (sym : Byte) : CodeBits :=
  Memory.read 0#255 s.cbits sym.toNat

/-- NODE[i] (R47); none for i = 511, which is no entry of the arena. -/
def State.nodeAt (s : State) (i : NodeIdx) : Option Node :=
  if i.toNat < Config.nodeCap then some (Memory.read Node.blank s.node i.toNat) else none

/-- OUTBUF[i] (R50); none at or beyond OUTBUF_CAP. -/
def State.outAt (s : State) (i : BitCount) : Option Byte :=
  if i.toNat < s.outcap.toNat then some (Memory.read 0#8 s.outbuf i.toNat) else none

/-! ## Registers by number -/

/-- ID (R44): "HUFF" in ASCII, then the version byte 0x01. -/
def idValue : Data := 0x4855464601#40

/-- Register number `r` zero-extended to 40 bits (R41); none for the reserved numbers 0x0E to 0x1F. -/
def State.readReg (s : State) (r : BitVec 5) : Option Data :=
  match r.toNat with
  | 0x00 => some s.statusView
  | 0x01 => some (s.total.setWidth 40)
  | 0x02 => some (s.nleaves.setWidth 40)
  | 0x03 => some (s.nnodes.setWidth 40)
  | 0x04 => some (s.root.setWidth 40)
  | 0x05 => some s.encBits
  | 0x06 => some s.accstatView
  | 0x07 => some s.decTarget
  | 0x08 => some s.decConsumed
  | 0x09 => some (s.walk.setWidth 40)
  | 0x0A => some s.outlen
  | 0x0B => some s.rdptr
  | 0x0C => some s.outcap
  | 0x0D => some idValue
  | _ => none

/-! ## Data layouts -/

/-- RDNODE's data (spec/41_tree.md R145): with `sel` 0 {7'b0, leaf, weight}, with `sel` 1
{13'b0, leaf, sym, right, left}. -/
def Node.dataWord (n : Node) (sel : Bool) : Data :=
  if sel then 0#13 ++ BitVec.ofBool n.leaf ++ n.sym ++ n.right ++ n.left
  else 0#7 ++ BitVec.ofBool n.leaf ++ n.weight

/-- Chunk `w` of a code (spec/42_codes.md R161): bits 32w + 31 to 32w of {1'b0, CBITS[s]}. -/
def codeChunk (code : CodeBits) (w : BitVec 3) : BitVec 32 :=
  ((0#1 ++ code : BitVec 256)).extractLsb' (32 * w.toNat) 32

/-- RDCODE's data (R161): {CLEN[s], chunk}. -/
def State.codeData (s : State) (sym : Byte) (w : BitVec 3) : Data :=
  s.clenAt sym ++ codeChunk (s.cbitsAt sym) w

end Sys2Proof.Machine
end

