-- ==== Sys2Proof/Machine/Ops.lean ====
section
/-! DEFINITION. The operations every command shares: writing a memory, the three outcomes of a command (spec/00_scope.md R9,
spec/30_encoding.md R85 to R89), the fatal-error entry and the ways out of phase ERROR (spec/60_exceptions.md R245, R248), and
`emit`. -/

namespace Sys2Proof.Machine

/-! ## Writing a memory -/

/-- Writes `v` at index `a`, keeping the canonical form: indices rising, no entry equal to the default `d`. -/
def Memory.write {α : Type} [DecidableEq α] (d : α) : List (Nat × α) → Nat → α → List (Nat × α)
  | [], a, v => if v = d then [] else [(a, v)]
  | (k, x) :: m, a, v =>
    if a < k then (if v = d then (k, x) :: m else (a, v) :: (k, x) :: m)
    else if a = k then (if v = d then m else (a, v) :: m)
    else (k, x) :: Memory.write d m a v

/-- The canonical form above a bound: every index is at least `lo` and below `size`, the indices rise strictly, and no entry
is the default. -/
def Memory.wfFrom {α : Type} [DecidableEq α] (d : α) (size : Nat) : Nat → List (Nat × α) → Bool
  | _, [] => true
  | lo, (k, v) :: m => decide (lo ≤ k ∧ k < size ∧ v ≠ d) && Memory.wfFrom d size (k + 1) m

/-- The canonical form of a memory of `size` entries. -/
def Memory.wf {α : Type} [DecidableEq α] (d : α) (size : Nat) (m : List (Nat × α)) : Bool :=
  Memory.wfFrom d size 0 m

/-- FREQ[s] <- v (R46). -/
def State.setFreq (s : State) (sym : Byte) (v : Count) : State :=
  { s with freq := Memory.write 0#32 s.freq sym.toNat v }

/-! ## Responses -/

/-- Puts a response word on the response port. -/
def State.answer (s : State) (w : Word) : State :=
  { s with port := { s.port with rsp := some w } }

/-- `respond(d)` (R9, R85): the command ends normally; PHASE is the value after the command. -/
def State.respond (s : State) (d : Data) : State :=
  s.answer (rspWord statusOk s.phase d)

/-- `reject(code)` (R9, R86, R242): no change to any state. -/
def State.reject (s : State) (c : RejectCode) : State :=
  s.answer (rspWord c.bits s.phase 0#40)

/-! ## The fatal-error entry and its return -/

/-- The four writes of the fatal-error entry (spec/60_exceptions.md R245), applied to the state before the command. -/
def State.fatalEntry (s : State) (c : FatalCode) : State :=
  { s with phase := .error, errcode := c.bits, outlen := 0#40, rdptr := 0#40 }

/-- TAKING AN EXCEPTION: `raise Fatal(code)` (R9, R245, R87). `s` is the state BEFORE the command, so every state change the
command made is undone. -/
def State.raiseFatal (s : State) (c : FatalCode) : State :=
  (s.fatalEntry c).answer (rspWord c.bits .error 0#40)

/-- The last ready phase (spec/45_control.md R222). -/
def State.readyPhase (s : State) : Phase :=
  if s.cv then .coded else if s.shape ≠ .none then .built else .idle

/-- Ending a session (R222), which is also the return from phase ERROR that keeps the tables (R248). -/
def State.endSession (s : State) : State :=
  { s with
    errcode := 0x00#8
    encBits := 0#40
    acc := 0#8
    accn := 0#3
    decTarget := 0#40
    decConsumed := 0#40
    walk := s.root
    outlen := 0#40
    rdptr := 0#40
    phase := s.readyPhase }

/-- Clearing every register of spec/10_state.md R23 to R38 and FREQ to its reset value (R221), which is also the return from
phase ERROR that clears everything (R248). NODE, CLEN, CBITS and OUTBUF keep their contents; OUTCAP is not changed. -/
def State.clearAll (s : State) : State :=
  { s with
    phase := .idle
    cv := false
    shape := .none
    errcode := 0x00#8
    total := 0#32
    nleaves := 0#9
    nnodes := 0#10
    root := 0#9
    encBits := 0#40
    acc := 0#8
    accn := 0#3
    decTarget := 0#40
    decConsumed := 0#40
    walk := 0#9
    outlen := 0#40
    rdptr := 0#40
    freq := [] }

/-! ## The outcomes of a command -/

/-- Why a loop inside a command ends early: `raise Fatal(code)`, or one of the model's faults. -/
inductive Halt where
  | fatal (c : FatalCode)
  | fault (f : Fault)
  deriving DecidableEq, Repr

/-- How a command's own rule ends (R88): `respond(d)` in a new state, `reject(code)`, `raise Fatal(code)`, or a fault. -/
inductive Result where
  | ok (s : State) (d : Data)
  | reject (c : RejectCode)
  | halt (h : Halt)

/-- The outcome of a command that began in state `s`. A rejection leaves `s` (R242), a fatal error restores it (R245). -/
def State.finish (s : State) : Result → Host.Outcome State Fault Refusal
  | .ok t d => .next (t.respond d)
  | .reject c => .next (s.reject c)
  | .halt (.fatal c) => .next (s.raiseFatal c)
  | .halt (.fault f) => .fault f

/-- The phase check of R88 and then the command's rule: `legal` is the phase condition of R89. -/
def State.command (s : State) (legal : Bool) (r : Result) : Host.Outcome State Fault Refusal :=
  if legal then s.finish r else .next (s.reject .phase)

/-! ## The output buffer -/

/-- `emit(b)` (R9): appends a byte to OUTBUF, or raises E_OUT_OVF when it is full. OUTLEN above OUTBUF_CAP, which no run
reaches (R51 item 7), would write an entry that does not exist (log 6). -/
def State.emit (s : State) (b : Byte) : Except Halt State :=
  if s.outlen = s.outcap then .error (.fatal .outOvf)
  else if s.outlen.toNat < s.outcap.toNat then
    .ok { s with outbuf := Memory.write 0#8 s.outbuf s.outlen.toNat b, outlen := s.outlen + 1#40 }
  else .error (.fault .noSuchEntry)

end Sys2Proof.Machine
end

