-- ==== Sys2Proof/Machine/Codes.lean ====
section
/-! DEFINITION. The code table generator commands: GENC, RDCODE (spec/42_codes.md R160 to R162). GENC is legal only in BUILT,
RDCODE in every phase with CV = 1 (spec/30_encoding.md R89). -/

namespace Sys2Proof.Machine

/-- One entry of the code table: a symbol, its code's length and its code in the storage form of spec/00_scope.md R8. -/
structure CodeEntry where
  sym : Byte
  len : BitVec 8
  bits : CodeBits
  deriving DecidableEq, Repr

/-- `visit(i, len, val)` of R160: the codes of the leaves below node `i`, where `val` is the path so far in `len` bits, 0 for
a step to the left and 1 for a step to the right. `fuel` is one more than the edges the path may still take: a leaf deeper than
MAXLEN = 255, which no tree of BUILD has (R163), has no code that fits CLEN and CBITS, and the walk ends in a fault (log 6). -/
def State.visit (s : State) : (fuel : Nat) → NodeIdx → (len val : Nat) → Except Fault (List CodeEntry)
  | 0, _, _, _ => .error .walkTooLong
  | fuel + 1, i, len, val =>
    match s.nodeAt i with
    | none => .error .noSuchEntry
    | some n =>
      if n.leaf then .ok [{ sym := n.sym, len := BitVec.ofNat 8 len, bits := BitVec.ofNat 255 val }]
      else
        match s.visit fuel n.left (len + 1) (2 * val) with
        | .error f => .error f
        | .ok ls =>
          match s.visit fuel n.right (len + 1) (2 * val + 1) with
          | .error f => .error f
          | .ok rs => .ok (ls ++ rs)

/-- The codes of the current tree (R160): the single symbol's code is "0" (R162); an absent tree has no code. -/
def State.treeCodes (s : State) : Except Fault (List CodeEntry) :=
  match s.shape with
  | .single => .ok [{ sym := (Memory.read Node.blank s.node 0).sym, len := 1#8, bits := 0#255 }]
  | .general => s.visit (Config.maxLen + 1) s.root 0 0
  | .absent | .none => .ok []

/-- CLEN with every entry first absent and then the codes' lengths (R160). -/
def codeLens (codes : List CodeEntry) : List (Nat × BitVec 8) :=
  codes.foldl (fun m e => Memory.write 0#8 m e.sym.toNat e.len) []

/-- CBITS with every entry first 0 and then the codes (R160). -/
def codeWords (codes : List CodeEntry) : List (Nat × CodeBits) :=
  codes.foldl (fun m e => Memory.write 0#255 m e.sym.toNat e.bits) []

/-- The state after GENC (R160). -/
def State.withCodes (s : State) (codes : List CodeEntry) : State :=
  { s with clen := codeLens codes, cbits := codeWords codes, cv := true, phase := .coded }

/-- GENC (R160). -/
def execGenc (s : State) : Host.Outcome State Fault Refusal :=
  s.command (s.phase == .built) <|
    match s.treeCodes with
    | .ok codes => .ok (s.withCodes codes) 0#40
    | .error f => .halt (.fault f)

/-- RDCODE (R161): rejected with R_PHASE when CV = 0. -/
def execRdcode (sym : Byte) (chunk : BitVec 3) (s : State) : Host.Outcome State Fault Refusal :=
  s.command s.cv (.ok s (s.codeData sym chunk))

end Sys2Proof.Machine
end

