-- ==== Sys2Proof/Machine/Control.lean ====
section
/-! DEFINITION. The control, register-read and output commands: NOP, CLR, SESS, RDREG, RDOUT (spec/45_control.md R220 to
R224). NOP, CLR, SESS and RDREG are legal in every phase, RDOUT only in DONE (spec/30_encoding.md R89). -/

namespace Sys2Proof.Machine

/-- NOP (R220). -/
def execNop (s : State) : Host.Outcome State Fault Refusal :=
  s.command true (.ok s 0#40)

/-- CLR (R221). -/
def execClr (s : State) : Host.Outcome State Fault Refusal :=
  s.command true (.ok s.clearAll 0#40)

/-- SESS (R222). -/
def execSess (s : State) : Host.Outcome State Fault Refusal :=
  s.command true (.ok s.endSession 0#40)

/-- RDREG (R223): a reserved register number is rejected with R_RANGE. -/
def execRdreg (reg : BitVec 5) (s : State) : Host.Outcome State Fault Refusal :=
  s.command true <|
    match s.readReg reg with
    | some d => .ok s d
    | none => .reject .range

/-- RDOUT (R224): R_EMPTY when every byte has been read. -/
def execRdout (s : State) : Host.Outcome State Fault Refusal :=
  s.command (s.phase == .done) <|
    if s.rdptr = s.outlen then .reject .empty
    else
      match s.outAt s.rdptr with
      | some b => .ok { s with rdptr := s.rdptr + 1#40 } (b.setWidth 40)
      | none => .halt (.fault .noSuchEntry)

end Sys2Proof.Machine
end

