-- ==== Sys2Proof/Machine/Frequency.lean ====
section
/-! DEFINITION. The frequency accumulator commands: FACC, FSET, RDFREQ (spec/40_frequency.md R120 to R122). FACC and FSET are
legal only in IDLE, RDFREQ in every phase (spec/30_encoding.md R89). -/

namespace Sys2Proof.Machine

/-- FACC (R120): counts one occurrence, or E_FREQ_OVF when TOTAL is already 2^32 − 1. -/
def execFacc (sym : Byte) (s : State) : Host.Outcome State Fault Refusal :=
  s.command (s.phase == .idle) <|
    if s.total.toNat = Config.maxTotal then .halt (.fatal .freqOvf)
    else
      let count := s.freqAt sym + 1#32
      .ok { s.setFreq sym count with total := s.total + 1#32 } (count.setWidth 40)

/-- FSET's new total, exact (R121): TOTAL − FREQ[s] + v, where FREQ[s] ≤ TOTAL (log 7). -/
def State.fsetTotal (s : State) (sym : Byte) (value : Count) : Nat :=
  s.total.toNat + value.toNat - (s.freqAt sym).toNat

/-- FSET (R121): sets a count, or E_FREQ_OVF when the new total would exceed 2^32 − 1. -/
def execFset (sym : Byte) (value : Count) (s : State) : Host.Outcome State Fault Refusal :=
  s.command (s.phase == .idle) <|
    if Config.maxTotal < s.fsetTotal sym value then .halt (.fatal .freqOvf)
    else
      let total := BitVec.ofNat 32 (s.fsetTotal sym value)
      .ok { s.setFreq sym value with total := total } (total.setWidth 40)

/-- RDFREQ (R122). -/
def execRdfreq (sym : Byte) (s : State) : Host.Outcome State Fault Refusal :=
  s.command true (.ok s ((s.freqAt sym).setWidth 40))

end Sys2Proof.Machine
end

