-- ==== Sys2Proof/Machine/Packer.lean ====
section
/-! DEFINITION. The bit packer commands: ENCB, ENCF (spec/43_packer.md R180, R181). Both are legal in CODED and ENCODING
(spec/30_encoding.md R89). -/

namespace Sys2Proof.Machine

/-- {ACC[6:0], bit}: the bit shifted in at the bottom (R180). -/
def State.accWith (s : State) (bit : Bool) : BitVec 8 :=
  s.acc.extractLsb' 0 7 ++ BitVec.ofBool bit

/-- One bit into the accumulator; the eighth completes a byte, which is emitted (R180). -/
def State.packBit (s : State) (bit : Bool) : Except Halt State :=
  if s.accn = 7#3 then
    match s.emit (s.accWith bit) with
    | .ok t => .ok { t with acc := 0#8, accn := 0#3 }
    | .error h => .error h
  else .ok { s with acc := s.accWith bit, accn := s.accn + 1#3 }

/-- The loop of R180 over bits j − 1 down to 0 of a code: the first code bit first. -/
def packCode (code : CodeBits) : (j : Nat) → State → Except Halt State
  | 0, s => .ok s
  | j + 1, s =>
    match s.packBit (code.getLsbD j) with
    | .ok t => packCode code j t
    | .error h => .error h

/-- ENCB (R180): E_ENC_NOCODE (R184), then E_BITS_OVF, then E_OUT_OVF at the first byte that does not fit. -/
def execEncb (sym : Byte) (s : State) : Host.Outcome State Fault Refusal :=
  s.command (s.phase == .coded || s.phase == .encoding) <|
    let len := (s.clenAt sym).toNat
    if len = 0 then .halt (.fatal .encNoCode)
    else if Config.maxBits < s.encBits.toNat + len then .halt (.fatal .bitsOvf)
    else
      match packCode (s.cbitsAt sym) len s with
      | .ok t =>
        let bits := BitVec.ofNat 40 (s.encBits.toNat + len)
        .ok { t with encBits := bits, phase := .encoding } bits
      | .error h => .halt h

/-- The padded last byte of R181: the pending bits, then zeros. -/
def State.padByte (s : State) : Byte :=
  s.acc <<< (8 - s.accn.toNat)

/-- The flush of R181: a padded byte is emitted exactly when bits are pending. -/
def State.flush (s : State) : Except Halt State :=
  if s.accn = 0#3 then .ok s
  else
    match s.emit s.padByte with
    | .ok t => .ok { t with acc := 0#8, accn := 0#3 }
    | .error h => .error h

/-- ENCF (R181). -/
def execEncf (s : State) : Host.Outcome State Fault Refusal :=
  s.command (s.phase == .coded || s.phase == .encoding) <|
    match s.flush with
    | .ok t => .ok { t with phase := .done } t.encBits
    | .error h => .halt h

end Sys2Proof.Machine
end

