-- ==== Sys2Proof/Machine/Tree.lean ====
section
/-! DEFINITION. The tree builder commands: BUILD, RDNODE (spec/41_tree.md R140 to R145). BUILD is legal only in IDLE, RDNODE in
every phase (spec/30_encoding.md R89). -/

namespace Sys2Proof.Machine

/-- `Leaf(s, w)` (spec/00_scope.md R10). -/
def Node.ofLeaf (sym : Byte) (weight : Count) : Node where
  leaf := true
  sym := sym
  weight := weight
  left := 0#9
  right := 0#9

/-- `Internal(w, a, b)` (spec/00_scope.md R10). -/
def Node.ofChildren (weight : Count) (left right : NodeIdx) : Node where
  leaf := false
  sym := 0#8
  weight := weight
  left := left
  right := right

/-- The leaves in seeding order (R144): the symbols with a non-zero count, ascending. Leaf k has index k. -/
def State.seedLeaves (s : State) : List Node :=
  (List.range Config.alphabet).filterMap fun k =>
    let sym := BitVec.ofNat 8 k
    if s.freqAt sym = 0#32 then none else some (Node.ofLeaf sym (s.freqAt sym))

/-- An element of the priority collection Q (R140): a node's index, which is its insertion sequence number (R141), and its
weight. -/
structure QItem where
  weight : Count
  index : Nat
  deriving DecidableEq, Repr

/-- The total order of R141: weight ascending, then insertion sequence number ascending. -/
def QItem.before (a b : QItem) : Bool :=
  decide (a.weight.toNat < b.weight.toNat) || (a.weight == b.weight && decide (a.index < b.index))

/-- The least element of Q under R141's order, and Q without it. -/
def takeLeast : List QItem → Option (QItem × List QItem)
  | [] => none
  | x :: q =>
    match takeLeast q with
    | none => some (x, [])
    | some (y, rest) => if x.before y then some (x, y :: rest) else some (y, x :: rest)

/-- The merges of R140, at most `k` of them, on the collection and the arena: the first removed becomes the left child, the
second the right child (R142), and the new node takes the next index. -/
def mergeAll : Nat → List QItem → List Node → List Node
  | 0, _, arena => arena
  | k + 1, q, arena =>
    match takeLeast q with
    | none => arena
    | some (a, q₁) =>
      match takeLeast q₁ with
      | none => arena
      | some (b, q₂) =>
        let w := a.weight + b.weight
        mergeAll k ({ weight := w, index := arena.length } :: q₂)
          (arena ++ [Node.ofChildren w (BitVec.ofNat 9 a.index) (BitVec.ofNat 9 b.index)])

/-- The priority collection seeded with the leaves (R144). -/
def seedQueue (leaves : List Node) : List QItem :=
  leaves.zipIdx.map fun p => { weight := p.1.weight, index := p.2 }

/-- The whole arena BUILD makes (R140): the leaves, then the internal nodes in creation order. `leaves.length` passes are more
than the n − 1 merges there are, and the loop stops when one node remains (R143). -/
def State.treeArena (s : State) : List Node :=
  mergeAll s.seedLeaves.length (seedQueue s.seedLeaves) s.seedLeaves

/-- Writes the arena's entries to NODE from index `i` on; entries beyond them keep their contents (R47). -/
def writeArena : List (Nat × Node) → Nat → List Node → List (Nat × Node)
  | m, _, [] => m
  | m, i, n :: ns => writeArena (Memory.write Node.blank m i n) (i + 1) ns

/-- The shape of a tree of `n` leaves (R143). -/
def Shape.ofLeaves : Nat → Shape
  | 0 => .absent
  | 1 => .single
  | _ => .general

/-- The state after BUILD (R140). ROOT is the last node made, and 0 for the shapes ABSENT and SINGLE. -/
def State.withTree (s : State) : State :=
  let leaves := s.seedLeaves
  let arena := s.treeArena
  let root := BitVec.ofNat 9 (arena.length - 1)
  { s with
    node := writeArena s.node 0 arena
    shape := Shape.ofLeaves leaves.length
    nleaves := BitVec.ofNat 9 leaves.length
    nnodes := BitVec.ofNat 10 arena.length
    root := root
    walk := root
    phase := .built }

/-- BUILD (R140). -/
def execBuild (s : State) : Host.Outcome State Fault Refusal :=
  s.command (s.phase == .idle) (.ok s.withTree (s.withTree.nleaves.setWidth 40))

/-- RDNODE (R145): R_RANGE when the index is not below NNODES. -/
def execRdnode (sel : Bool) (index : NodeIdx) (s : State) : Host.Outcome State Fault Refusal :=
  s.command true <|
    if s.nnodes.toNat ≤ index.toNat then .reject .range
    else
      match s.nodeAt index with
      | some n => .ok s (n.dataWord sel)
      | none => .halt (.fault .noSuchEntry)

end Sys2Proof.Machine
end

