-- ==== Sys2Proof/Machine/Unpacker.lean ====
section
/-! DEFINITION. The bit unpacker commands: DECS, DECB, DECF (spec/44_unpacker.md R200 to R205). DECS is legal in BUILT and
CODED, DECB and DECF in DECODING (spec/30_encoding.md R89). -/

namespace Sys2Proof.Machine

/-- DECS (R200). -/
def execDecs (count : BitCount) (s : State) : Host.Outcome State Fault Refusal :=
  s.command (s.phase == .built || s.phase == .coded) <|
    .ok { s with decTarget := count, decConsumed := 0#40, walk := s.root, phase := .decoding } 0#40

/-- The child of an internal node on a bit: `right` on 1, `left` on 0 (R201). -/
def Node.child (n : Node) (bit : Bool) : NodeIdx :=
  if bit then n.right else n.left

/-- One step of the walk on a consumed bit in a tree that is no single leaf (R201). -/
def State.walkBit (s : State) (bit : Bool) : Except Halt State :=
  match s.nodeAt s.walk with
  | none => .error (.fault .noSuchEntry)
  | some here =>
    match s.nodeAt (here.child bit) with
    | none => .error (.fault .noSuchEntry)
    | some nxt =>
      if nxt.leaf then
        match s.emit nxt.sym with
        | .ok t => .ok { t with walk := t.root }
        | .error h => .error h
      else .ok { s with walk := here.child bit }

/-- One bit of the byte (R201): bits at or past DEC_TARGET are not consumed and never examined. -/
def State.unpackBit (s : State) (bit : Bool) : Except Halt State :=
  if s.decConsumed.toNat < s.decTarget.toNat then
    let t := { s with decConsumed := s.decConsumed + 1#40 }
    if s.shape = .single then t.emit (Memory.read Node.blank s.node 0).sym else t.walkBit bit
  else .ok s

/-- The loop of R201 over bits i − 1 down to 0 of the byte: the most significant bit first. -/
def unpackByte (b : Byte) : (i : Nat) → State → Except Halt State
  | 0, s => .ok s
  | i + 1, s =>
    match s.unpackBit (b.getLsbD i) with
    | .ok t => unpackByte b i t
    | .error h => .error h

/-- DECB (R201); with an absent tree it changes nothing (R204). -/
def execDecb (byte : Byte) (s : State) : Host.Outcome State Fault Refusal :=
  s.command (s.phase == .decoding) <|
    if s.shape = .absent then .ok s s.outlen
    else
      match unpackByte byte 8 s with
      | .ok t => .ok t t.outlen
      | .error h => .halt h

/-- DECF (R202): an absent tree succeeds (R204); else E_DEC_SHORT, then E_DEC_INCOMPLETE. -/
def execDecf (s : State) : Host.Outcome State Fault Refusal :=
  s.command (s.phase == .decoding) <|
    if s.shape = .absent then .ok { s with phase := .done } s.outlen
    else if s.decConsumed.toNat < s.decTarget.toNat then .halt (.fatal .decShort)
    else if s.shape = .general ∧ s.walk ≠ s.root then .halt (.fatal .decIncomplete)
    else .ok { s with phase := .done } s.outlen

end Sys2Proof.Machine
end

