-- ==== Sys2Proof/Machine/Dispatch.lean ====
section
/-! DEFINITION. One arm per command (spec/30_encoding.md R90): what an accepted, decoded command does. -/

namespace Sys2Proof.Machine

def exec (i : Instr) (s : State) : Host.Outcome State Fault Refusal :=
  match i with
  | .nop => Sys2Proof.Machine.execNop s
  | .clr => Sys2Proof.Machine.execClr s
  | .sess => Sys2Proof.Machine.execSess s
  | .rdreg reg => Sys2Proof.Machine.execRdreg reg s
  | .facc sym => Sys2Proof.Machine.execFacc sym s
  | .fset sym value => Sys2Proof.Machine.execFset sym value s
  | .rdfreq sym => Sys2Proof.Machine.execRdfreq sym s
  | .build => Sys2Proof.Machine.execBuild s
  | .rdnode sel index => Sys2Proof.Machine.execRdnode sel index s
  | .genc => Sys2Proof.Machine.execGenc s
  | .rdcode sym chunk => Sys2Proof.Machine.execRdcode sym chunk s
  | .encb sym => Sys2Proof.Machine.execEncb sym s
  | .encf => Sys2Proof.Machine.execEncf s
  | .decs count => Sys2Proof.Machine.execDecs count s
  | .decb byte => Sys2Proof.Machine.execDecb byte s
  | .decf => Sys2Proof.Machine.execDecf s
  | .rdout => Sys2Proof.Machine.execRdout s

end Sys2Proof.Machine
end

