-- ==== Sys2Proof/Machine/HostPort.lean ====
section
/-! DEFINITION. The command and response ports and reset, at the transaction level (spec/30_encoding.md R80, R81, R88;
spec/00_scope.md R12, R13; spec/70_reset_and_hazards.md R270, R274): what the host's next act does. The model has no time
(R280): an accepted command is answered at once (log 2, log 10). -/

namespace Sys2Proof.Machine

/-- `cmd_ready` (R81): 0 until the response to the command in flight has been accepted. -/
def State.cmdReady (s : State) : Bool := s.port.rsp.isNone

/-- `rsp_valid` (R80). -/
def State.rspValid (s : State) : Bool := s.port.rsp.isSome

/-- Handling one accepted command word (R88): the opcode and field checks, then the command itself, whose own first check is
the phase. -/
def handleWord (w : Word) (s : State) : Host.Outcome State Fault Refusal :=
  match decode w with
  | .error .opcode => .next (s.reject .opcode)
  | .error .field => .next (s.reject .field)
  | .ok i => exec i s

/-- The state once the host's next act is under way: the acts after it are still to come. -/
def State.withHost (s : State) (rest : List HostAct) : State :=
  { s with port := { s.port with host := rest } }

/-- The host accepts the offered response, if there is one (R80). -/
def State.takeRsp (s : State) : State :=
  match s.port.rsp with
  | none => s
  | some w => { s with port := { s.port with rsp := none, sent := s.port.sent ++ [w] } }

/-- The effect of `rst` (R270): every piece of state to its reset value, `rsp_valid` to 0, the command in flight abandoned with
no response. OUTCAP is not changed by reset (R43). The host's own acts and what it has accepted are not HUFFCORE's (log 3). -/
def State.hwReset (s : State) : State :=
  { State.reset with outcap := s.outcap, port := { s.port with rsp := none } }

/-- One act of the host. With no act to come, HUFFCORE holds its state (spec/60_exceptions.md R257); an offer while
`cmd_ready` is 0 is not accepted (R81, R274). -/
def hostStep (s : State) : Host.Outcome State Fault Refusal :=
  match s.port.host with
  | [] => .next s
  | .rst :: rest => .next (s.withHost rest).hwReset
  | .take :: rest => .next (s.withHost rest).takeRsp
  | .offer w :: rest =>
    if s.cmdReady then handleWord w (s.withHost rest) else .next (s.withHost rest)

/-- `s` with the command word `w` as the host's next act and the response port free, so that the next step accepts and runs
it (R81: a response still offered is accepted first). -/
def State.withOffer (s : State) (w : Word) : State :=
  s.takeRsp.withHost (.offer w :: s.port.host)

end Sys2Proof.Machine
end

