-- ==== Sys2Proof/Machine/Step.lean ====
section
/-! DEFINITION. One step of the machine (spec/00_scope.md R12): the host's next act. -/

namespace Sys2Proof.Machine

/-- One step. -/
def step : State → Host.Outcome State Fault Refusal := hostStep

/-- `s` with an instruction word of the opcode table placed where the next step takes its command from: the host's next
offer. The bits above `nbits` are 0. -/
def State.withFetchWord (s : State) (nbits w : Nat) : State :=
  s.withOffer (BitVec.ofNat 64 (w % 2 ^ nbits))

end Sys2Proof.Machine
end

