-- ==== Sys2Proof/Machine/Asm.lean ====
section
/-! DEFINITION. The assembler of spec/30_encoding.md R95 and R96, and the command sequences of the operations `encode` and
`decode` (spec/45_control.md R225, R226). HUFFCORE never sees a pseudo-instruction: this stands beside the machine, and no
step uses it (log 14, log 15). Machine/Operation.lean sends these sequences and reads the answers. -/

namespace Sys2Proof.Machine

/-! ## Words of a line -/

/-- A lexical element of an assembly line (R95). -/
inductive Tok where
  /-- A mnemonic or a register name. -/
  | name (s : String)
  /-- A number, or a character in single quotes as its code. -/
  | num (n : Nat)
  /-- A string in double quotes, as its codes (R96). -/
  | str (codes : List Nat)
  | comma
  | colon
  /-- Anything else: the line is rejected. -/
  | bad
  deriving DecidableEq, Repr

/-- Where the lexer stands in a line. -/
inductive LexMode where
  | between
  /-- Inside a name or a number; the characters so far, last first. -/
  | inWord (rev : List Char)
  /-- After an opening single quote. -/
  | quoteOpen
  /-- After a quoted character. -/
  | quoteBody (c : Char)
  /-- Inside double quotes; the codes so far, last first. -/
  | inString (rev : List Nat)
  /-- After `;`. -/
  | comment
  deriving DecidableEq, Repr

/-- The lexer's mode and the elements found, last first. -/
structure Lexer where
  mode : LexMode
  revToks : List Tok
  deriving DecidableEq, Repr

/-- The value of a digit in base 10 or 16. -/
def digitValue (base : Nat) (c : Char) : Option Nat :=
  let n := c.toNat
  let v :=
    if 48 ≤ n ∧ n ≤ 57 then some (n - 48)
    else if 65 ≤ n ∧ n ≤ 70 then some (n - 55)
    else if 97 ≤ n ∧ n ≤ 102 then some (n - 87)
    else none
  v.filter (· < base)

/-- Reading digits after the value so far. -/
def digitsFrom (base : Nat) : Nat → List Char → Option Nat
  | acc, [] => some acc
  | acc, c :: cs =>
    match digitValue base c with
    | some d => digitsFrom base (base * acc + d) cs
    | none => none

/-- A number, decimal or hexadecimal with `0x` (R95). DESIGN CHOICE (log 15): hexadecimal digits in either case, the `x` of
`0x` in lower case only. -/
def parseNumber : List Char → Option Nat
  | [] => none
  | '0' :: 'x' :: c :: cs => digitsFrom 16 0 (c :: cs)
  | c :: cs => digitsFrom 10 0 (c :: cs)

/-- The element a finished word is: a number when it begins with a digit, else a name. -/
def wordTok (cs : List Char) : Tok :=
  match cs with
  | [] => .bad
  | c :: _ =>
    if (digitValue 10 c).isSome then
      match parseNumber cs with
      | some n => .num n
      | none => .bad
    else .name (String.ofList cs)

/-- The element an unfinished mode ends in, if any. -/
def LexMode.close : LexMode → List Tok
  | .between | .comment => []
  | .inWord rev => [wordTok rev.reverse]
  | .quoteOpen | .quoteBody _ | .inString _ => [.bad]

/-- The element and the mode a character begins between words. Code 34 is the double quote, code 39 the single quote. -/
def lexBegin (toks : List Tok) (c : Char) : Lexer :=
  if c = ' ' ∨ c = '\t' then ⟨.between, toks⟩
  else if c = ';' then ⟨.comment, toks⟩
  else if c = ',' then ⟨.between, .comma :: toks⟩
  else if c = ':' then ⟨.between, .colon :: toks⟩
  else if c.toNat = 39 then ⟨.quoteOpen, toks⟩
  else if c.toNat = 34 then ⟨.inString [], toks⟩
  else if c.isAlphanum ∨ c = '_' then ⟨.inWord [c], toks⟩
  else ⟨.between, .bad :: toks⟩

/-- One character of a line. DESIGN CHOICE (log 15): a quoted character becomes a plain number, so it may stand wherever a
number may (FSET's value, DECS's count, an RDNODE index, an RDOUTS count), where R95 grants it to symbol and byte operands; and
a character's number is its Unicode code point, so that 0x80 to 0xFF are bytes too, where R95 and R96 speak only of ASCII. -/
def lexStep (l : Lexer) (c : Char) : Lexer :=
  match l.mode with
  | .between => lexBegin l.revToks c
  | .inWord rev =>
    if c.isAlphanum ∨ c = '_' then ⟨.inWord (c :: rev), l.revToks⟩
    else lexBegin (wordTok rev.reverse :: l.revToks) c
  | .quoteOpen => ⟨.quoteBody c, l.revToks⟩
  | .quoteBody d =>
    if c.toNat = 39 then ⟨.between, .num d.toNat :: l.revToks⟩ else ⟨.between, .bad :: l.revToks⟩
  | .inString rev =>
    if c.toNat = 34 then ⟨.between, .str rev.reverse :: l.revToks⟩ else ⟨.inString (c.toNat :: rev), l.revToks⟩
  | .comment => l

/-- The elements of a line; `;` starts a comment (R95), but not inside quotes (log 14). -/
def lexLine (line : List Char) : List Tok :=
  let l := line.foldl lexStep ⟨.between, []⟩
  (l.mode.close ++ l.revToks).reverse

/-! ## Operands -/

/-- An operand of a line (R95, R96). -/
inductive Operand where
  | num (n : Nat)
  | name (s : String)
  | str (codes : List Nat)
  /-- `s:v`, an item of FLOAD. -/
  | pair (sym value : Nat)
  deriving DecidableEq, Repr

/-- One operand at the head of the elements. -/
def parseOperand : List Tok → Option (Operand × List Tok)
  | .num s :: .colon :: .num v :: rest => some (.pair s v, rest)
  | .num n :: rest => some (.num n, rest)
  | .name s :: rest => some (.name s, rest)
  | .str cs :: rest => some (.str cs, rest)
  | _ => none

/-- Operands separated by commas (R95); `fuel` is at least the number of elements. -/
def parseOperands : (fuel : Nat) → List Tok → Option (List Operand)
  | 0, _ => none
  | fuel + 1, toks =>
    match parseOperand toks with
    | none => none
    | some (o, []) => some [o]
    | some (o, .comma :: rest) => (parseOperands fuel rest).map (o :: ·)
    | some _ => none

/-- An operand that does not fit its field is rejected (R95). -/
def fit (w n : Nat) : Option (BitVec w) :=
  if n < 2 ^ w then some (BitVec.ofNat w n) else none

/-- The register names of spec/10_state.md R41 in the order of their numbers. -/
def registerNames : List String :=
  ["STATUS", "TOTAL", "NLEAVES", "NNODES", "ROOT", "ENC_BITS", "ACCSTAT", "DEC_TARGET", "DEC_CONSUMED", "WALK", "OUTLEN",
    "RDPTR", "OUTCAP", "ID"]

/-- RDREG's operand: a register name or a number (R95). -/
def parseReg : Operand → Option (BitVec 5)
  | .num n => fit 5 n
  | .name s => (registerNames.idxOf? s).bind (fit 5)
  | _ => none

/-- All or nothing. -/
def allSome {α : Type} : List (Option α) → Option (List α)
  | [] => some []
  | none :: _ => none
  | some x :: xs => (allSome xs).map (x :: ·)

/-- A list of bytes; a string stands for its bytes in order (R96). DESIGN CHOICE (log 15): the list may be empty, and so may a
string. -/
def parseBytes (ops : List Operand) : Option (List Byte) :=
  allSome <| ops.flatMap fun
    | .num n => [fit 8 n]
    | .str cs => cs.map (fit 8)
    | _ => [none]

/-- FLOAD's items (R96). DESIGN CHOICE (log 15): there may be none. -/
def parsePairs (ops : List Operand) : Option (List (Byte × Count)) :=
  allSome <| ops.map fun
    | .pair s v => (fit 8 s).bind fun s => (fit 32 v).map fun v => (s, v)
    | _ => none

/-! ## Pseudo-instructions and operations -/

/-- FACCS (R96). -/
def faccs (bytes : List Byte) : List Instr := bytes.map .facc

/-- ENCS (R96). -/
def encs (bytes : List Byte) : List Instr := bytes.map .encb

/-- DECBS (R96). -/
def decbs (bytes : List Byte) : List Instr := bytes.map .decb

/-- FLOAD (R96). -/
def fload (items : List (Byte × Count)) : List Instr := items.map fun p => .fset p.1 p.2

/-- RDOUTS (R96). -/
def rdouts (n : Nat) : List Instr := List.replicate n .rdout

/-- The commands of the operation `encode` before ENCF (R225). -/
def encodeFeed (bytes : List Byte) : List Instr :=
  [.clr] ++ faccs bytes ++ [.build, .genc] ++ encs bytes

/-- ENCODE (R96), which is the operation `encode` of R225 up to the reads of its results. -/
def encodeOp (bytes : List Byte) : List Instr :=
  encodeFeed bytes ++ [.encf]

/-- All 256 symbols, ascending. -/
def allSymbols : List Byte :=
  (List.range Config.alphabet).map (BitVec.ofNat 8)

/-- The reads that give the `frequencyTable` after `encode` (R225). -/
def readTable : List Instr :=
  allSymbols.map .rdfreq

/-- The reads that give the packed bytes after `encode`: ceil(dataBits / 8) of them (R225). -/
def readPacked (dataBits : Nat) : List Instr :=
  rdouts ((dataBits + 7) / 8)

/-- The commands of the operation `decode` before DECF (R226): the non-zero counts, `dataBits`, the packed bytes. -/
def decodeFeed (table : List (Byte × Count)) (dataBits : BitCount) (packed : List Byte) : List Instr :=
  [.clr] ++ fload table ++ [.build, .decs dataBits] ++ decbs packed

/-- The operation `decode` up to the reads of its result (R226). -/
def decodeOp (table : List (Byte × Count)) (dataBits : BitCount) (packed : List Byte) : List Instr :=
  decodeFeed table dataBits packed ++ [.decf]

/-! ## Lines -/

/-- The commands without operands (R95, format N). -/
def plainCommands : List (String × Instr) :=
  [("NOP", .nop), ("CLR", .clr), ("SESS", .sess), ("BUILD", .build), ("GENC", .genc), ("ENCF", .encf), ("DECF", .decf),
    ("RDOUT", .rdout)]

/-- The commands with one byte operand (R95, format S). -/
def byteCommands : List (String × (Byte → Instr)) :=
  [("FACC", .facc), ("RDFREQ", .rdfreq), ("ENCB", .encb), ("DECB", .decb)]

/-- The pseudo-instructions over a list of bytes (R96). -/
def byteLists : List (String × (List Byte → List Instr)) :=
  [("FACCS", faccs), ("ENCS", encs), ("DECBS", decbs), ("ENCODE", encodeOp)]

/-- The commands of the other formats (R95). -/
def assembleFielded (mnemonic : String) (ops : List Operand) : Option Instr :=
  if mnemonic = "RDREG" then
    match ops with
    | [r] => (parseReg r).map .rdreg
    | _ => none
  else
    match ops with
    | [.num a, .num b] =>
      if mnemonic = "FSET" then (fit 8 a).bind fun s => (fit 32 b).map fun v => .fset s v
      else if mnemonic = "RDCODE" then (fit 8 a).bind fun s => (fit 3 b).map fun w => .rdcode s w
      else if mnemonic = "RDNODE" then (fit 9 a).bind fun i => (fit 1 b).map fun e => .rdnode (e == 1#1) i
      else none
    | [.num a] => if mnemonic = "DECS" then (fit 40 a).map .decs else none
    | _ => none

/-- A command or a pseudo-instruction with its operands (R95, R96). DESIGN CHOICE (log 15): R96 shows a list b0 to bk only; here
FACCS, ENCS, DECBS and FLOAD with no operand expand to no command, and ENCODE with none to CLR, BUILD, GENC, ENCF. -/
def assembleOp (mnemonic : String) (ops : List Operand) : Option (List Instr) :=
  match plainCommands.lookup mnemonic, ops with
  | some i, [] => some [i]
  | some _, _ :: _ => none
  | none, _ =>
    match byteCommands.lookup mnemonic, ops with
    | some mk, [.num n] => (fit 8 n).map fun b => [mk b]
    | some _, _ => none
    | none, _ =>
      match byteLists.lookup mnemonic with
      | some mk => (parseBytes ops).map mk
      | none =>
        if mnemonic = "RDSTAT" then (if ops = [] then some [.rdreg 0x00#5] else none)
        else if mnemonic = "FLOAD" then (parsePairs ops).map fload
        else if mnemonic = "RDOUTS" then
          match ops with
          | [.num n] => some (rdouts n)
          | _ => none
        else (assembleFielded mnemonic ops).map fun i => [i]

/-- One line of assembly (R95): no command, or the commands it expands to (R96); none when the assembler rejects it. DESIGN
CHOICE (log 15): mnemonics and register names in capitals, and an empty line is no command. -/
def assembleLine (line : List Char) : Option (List Instr) :=
  match lexLine line with
  | [] => some []
  | [.name m] => assembleOp m []
  | .name m :: rest => (parseOperands (rest.length + 1) rest).bind (assembleOp m)
  | _ => none

end Sys2Proof.Machine
end

