-- ==== Sys2Proof/Machine/Operation.lean ====
section
/-! DEFINITION. The operations `encode` and `decode` (spec/45_control.md R225, R226) as the host performs them: it sends the
commands of Machine/Asm.lean, reads every response, and forms the operation's result or its failure. They stand beside the
machine: no step uses them (log 14, log 16). -/

namespace Sys2Proof.Machine

/-! ## Results of an operation -/

/-- The kinds of failure an operation can report (spec/60_exceptions.md R241, R243, R244). -/
inductive OpError where
  /-- `EncodingError`: STATUS 0x01 to 0x0F. -/
  | encodingError
  /-- `DecodingError`: STATUS 0x10 to 0x1F. -/
  | decodingError
  /-- A fatal error the document does not name: STATUS 0x20 to 0x7F. -/
  | unnamedFatal
  /-- A rejection: STATUS 0x80 to 0xFF. -/
  | rejection
  deriving DecidableEq, Repr

/-- The kind of a non-zero status (R241). -/
def OpError.ofStatus (status : BitVec 8) : OpError :=
  if status.toNat < 0x10 then .encodingError
  else if status.toNat < 0x20 then .decodingError
  else if status.toNat < 0x80 then .unnamedFatal
  else .rejection

/-- How an operation ends: with its result, or with none (R225, R246). -/
inductive OpResult (α : Type) where
  /-- Every response was OK. -/
  | ok (value : α) (s : State)
  /-- A response had a non-zero STATUS: the operation failed and gives no result. -/
  | failed (error : OpError) (status : BitVec 8) (s : State)
  /-- The model stopped with a fault, which no reached state does (log 6). -/
  | stopped (f : Fault)
  /-- The model refused a command; it refuses none. -/
  | refused (r : Refusal)
  /-- A command gave no response, which none does (R240). -/
  | unanswered
  deriving DecidableEq, Repr

/-- Goes on with the value and the state of a part that succeeded; a part that failed is the whole's failure. -/
def OpResult.andThen {α β : Type} (r : OpResult α) (f : α → State → OpResult β) : OpResult β :=
  match r with
  | .ok a s => f a s
  | .failed e status s => .failed e status s
  | .stopped f => .stopped f
  | .refused r => .refused r
  | .unanswered => .unanswered

/-! ## Sending commands -/

/-- One command: the host sends it, accepts its response (spec/30_encoding.md R80, R81) and reads STATUS and DATA (R84). DESIGN
CHOICE (log 16): R225 and R226 name no port state to start from; where a response is still pending in `s`, the command runs at
once and its response takes that one's place, which is not added to `port.sent`. After a command none is pending, so this can
be only before an operation's first. -/
def ask (i : Instr) (s : State) : OpResult Data :=
  match exec i s with
  | .fault f => .stopped f
  | .refused r => .refused r
  | .next t =>
    match t.port.rsp with
    | none => .unanswered
    | some w =>
      if rspStatus w = statusOk then .ok (rspData w) t.takeRsp
      else .failed (OpError.ofStatus (rspStatus w)) (rspStatus w) t.takeRsp

/-- Commands one after the other, with the DATA of every response in order. DESIGN CHOICE (log 16): the host sends no further
command once a response has a non-zero STATUS. -/
def askAll : List Instr → State → OpResult (List Data)
  | [], s => .ok [] s
  | i :: is, s => (ask i s).andThen fun d t => (askAll is t).andThen fun ds u => .ok (d :: ds) u

/-! ## The operations -/

/-- A `frequencyTable` as symbols with their counts. DESIGN CHOICE (log 16): a symbol that is not listed counts 0. -/
abbrev FreqTable : Type := List (Byte × Count)

/-- The entries with a non-zero count: the ones that `decode` loads (R226). -/
def FreqTable.present (table : FreqTable) : FreqTable :=
  table.filter fun p => p.2 != 0#32

/-- The result of `encode`: `(frequencyTable, dataBits, packedBytes)` (R225). -/
structure Encoded where
  table : FreqTable
  dataBits : BitCount
  packed : List Byte
  deriving DecidableEq, Repr

/-- Reading bytes of the output by the commands `reads`, each a RDOUT (R224). -/
def readBytes (reads : List Instr) (s : State) : OpResult (List Byte) :=
  (askAll reads s).andThen fun data t => .ok (data.map (·.setWidth 8)) t

/-- Reading the frequency table by RDFREQ of each symbol (R225). -/
def readFreqTable (s : State) : OpResult FreqTable :=
  (askAll readTable s).andThen fun data t => .ok (allSymbols.zip (data.map (·.setWidth 32))) t

/-- The operation `encode(bytes)` (R225): `dataBits` is the DATA of ENCF's response, the packed bytes are ceil(`dataBits` / 8)
reads. -/
def hostEncode (bytes : List Byte) (s : State) : OpResult Encoded :=
  (askAll (encodeFeed bytes) s).andThen fun _ s₁ =>
    (ask .encf s₁).andThen fun dataBits s₂ =>
      (readFreqTable s₂).andThen fun table s₃ =>
        (readBytes (readPacked dataBits.toNat) s₃).andThen fun packed s₄ =>
          .ok { table := table, dataBits := dataBits, packed := packed } s₄

/-- The operation `decode(frequencyTable, dataBits, packedBytes)` (R226): the DATA of DECF's response is the number of decoded
bytes, which are then read. A fatal status at DECF is a `decodingError` (R244). -/
def hostDecode (table : FreqTable) (dataBits : BitCount) (packed : List Byte) (s : State) : OpResult (List Byte) :=
  (askAll (decodeFeed table.present dataBits packed) s).andThen fun _ s₁ =>
    (ask .decf s₁).andThen fun count s₂ => readBytes (rdouts count.toNat) s₂

end Sys2Proof.Machine
end

