-- ==== Sys2Proof/Safety.lean ====
section
/-! DEFINITION. What holds of every state HUFFCORE reaches (spec/10_state.md R51, with R29, R30, R32), and the declarative
words the statements use for codes, packed bits and walks (spec/00_scope.md R8, spec/20_memory.md R62). -/

namespace Sys2Proof.Machine

/-! ## Invariants -/

/-- Every memory has its canonical form, and lists only entries that exist (R46 to R50; log 5). -/
abbrev State.MemOk (s : State) : Prop :=
  Memory.wf 0#32 Config.alphabet s.freq = true ∧ Memory.wf Node.blank Config.nodeCap s.node = true ∧
  Memory.wf 0#8 Config.alphabet s.clen = true ∧ Memory.wf 0#255 Config.alphabet s.cbits = true ∧
  Memory.wf 0#8 s.outcap.toNat s.outbuf = true

/-- The sum of all entries of FREQ. -/
def State.freqSum (s : State) : Nat :=
  ((List.range Config.alphabet).map fun k => (s.freqAt (BitVec.ofNat 8 k)).toNat).sum

/-- R51 item 1: TOTAL is the sum of FREQ (that it is at most 2^32 − 1 is its width). -/
abbrev State.TotalOk (s : State) : Prop := s.total.toNat = s.freqSum

/-- R51 items 2 and 3 and the first half of 4: what a phase says of SHAPE and CV (ENCODING is entered from CODED only, so
CV = 1 there too). -/
abbrev State.PhaseOk (s : State) : Prop :=
  (s.phase = .idle → s.shape = .none ∧ s.cv = false) ∧
  (s.phase = .built → s.cv = false) ∧
  (s.phase = .coded ∨ s.phase = .encoding → s.cv = true) ∧
  (s.phase ≠ .idle → s.phase ≠ .error → s.shape ≠ .none) ∧
  (s.cv = true → s.shape ≠ .none)

/-- R51 items 5 and 6: the session registers are clear outside a session, and ERRCODE is non-zero exactly in ERROR. -/
abbrev State.SessionOk (s : State) : Prop :=
  (s.phase = .idle ∨ s.phase = .built ∨ s.phase = .coded →
    s.encBits = 0#40 ∧ s.acc = 0#8 ∧ s.accn = 0#3 ∧ s.decTarget = 0#40 ∧ s.decConsumed = 0#40 ∧ s.outlen = 0#40 ∧
    s.rdptr = 0#40 ∧ s.errcode = 0x00#8) ∧
  (s.phase = .error ↔ s.errcode ≠ 0x00#8) ∧
  (s.phase = .error → s.outlen = 0#40 ∧ s.rdptr = 0#40)

/-- R51 item 7 and R5: RDPTR ≤ OUTLEN ≤ OUTBUF_CAP, DEC_CONSUMED ≤ DEC_TARGET, 1 ≤ OUTBUF_CAP. -/
abbrev State.BoundsOk (s : State) : Prop :=
  s.rdptr.toNat ≤ s.outlen.toNat ∧ s.outlen.toNat ≤ s.outcap.toNat ∧ s.decConsumed.toNat ≤ s.decTarget.toNat ∧
  1 ≤ s.outcap.toNat

/-- The first sentence of R51 item 8, and R32: in CODED and ENCODING the bits packed and pending are the bits taken; the bits
of ACC above ACCN are 0. -/
abbrev State.PackerOk (s : State) : Prop :=
  (s.phase = .coded ∨ s.phase = .encoding → 8 * s.outlen.toNat + s.accn.toNat = s.encBits.toNat) ∧
  s.acc.toNat < 2 ^ s.accn.toNat

/-- The second sentence of R51 item 8 (R183), said of the state alone: in DONE no bit is pending, and OUTLEN is
ceil(ENC_BITS / 8) where DEC_TARGET is 0, as it is wherever ENCF leads to DONE. The other two clauses are what makes it hold
after every step: an encode session has no DEC_TARGET, and a decode session no packed bits and, for a count of 0, no output
(R205). -/
abbrev State.DoneOk (s : State) : Prop :=
  (s.phase = .encoding → s.decTarget = 0#40) ∧
  (s.phase = .decoding → s.encBits = 0#40 ∧ s.accn = 0#3 ∧ (s.decTarget = 0#40 → s.outlen = 0#40)) ∧
  (s.phase = .done → s.accn = 0#3 ∧ (s.decTarget = 0#40 → s.outlen.toNat = (s.encBits.toNat + 7) / 8))

/-- R51 item 10: WALK is ROOT outside DECODING and ERROR, and in DECODING unless the tree is general. -/
abbrev State.WalkOk (s : State) : Prop :=
  (s.phase ≠ .decoding → s.phase ≠ .error → s.walk = s.root) ∧
  (s.phase = .decoding → s.shape ≠ .general → s.walk = s.root)

/-- Entry `k` of NODE, as a plain read. -/
def State.nodeEntry (s : State) (k : Nat) : Node := Memory.read Node.blank s.node k

/-- R28 to R30, R51 item 9, R146 item 5: SHAPE, NLEAVES, NNODES, ROOT and the valid entries of NODE are those BUILD makes from
the FREQ that is frozen since; with no tree they are 0. -/
abbrev State.TreeOk (s : State) : Prop :=
  (s.shape = .none → s.nleaves = 0#9 ∧ s.nnodes = 0#10 ∧ s.root = 0#9) ∧
  (s.shape ≠ .none →
    s.shape = Shape.ofLeaves s.seedLeaves.length ∧
    s.nleaves.toNat = s.seedLeaves.length ∧
    s.nnodes.toNat = s.treeArena.length ∧
    s.root.toNat = s.treeArena.length - 1 ∧
    ∀ k < s.treeArena.length, s.treeArena[k]? = some (s.nodeEntry k))

/-- R51 item 9: with a general tree WALK indexes an internal node. -/
abbrev State.WalkInTree (s : State) : Prop :=
  s.shape = .general → s.walk.toNat < s.nnodes.toNat ∧ (s.nodeEntry s.walk.toNat).leaf = false

/-- R51 item 4: with CV = 1, CLEN and CBITS are the code table of the current tree (R160). -/
abbrev State.CodesOk (s : State) : Prop :=
  s.cv = true → ∃ codes, s.treeCodes = .ok codes ∧ s.clen = codeLens codes ∧ s.cbits = codeWords codes

/-- The invariant of spec/10_state.md R51, all ten items, with the model's canonical memories. -/
structure State.Inv (s : State) : Prop where
  mem : s.MemOk
  total : s.TotalOk
  phase : s.PhaseOk
  session : s.SessionOk
  bounds : s.BoundsOk
  packer : s.PackerOk
  done : s.DoneOk
  walk : s.WalkOk
  tree : s.TreeOk
  walkInTree : s.WalkInTree
  codes : s.CodesOk

/-! ## Answers -/

/-- The response word the port offers after a command is `w`, and the host's side of the port is as before. -/
abbrev State.Answers (s t : State) (w : Word) : Prop :=
  t.port = { s.port with rsp := some w }

/-- The state a rejection with status `code` leaves (R86, R242): as before, but for the response. -/
def State.Rejected (s : State) (code : BitVec 8) : State :=
  { s with port := { s.port with rsp := some (rspWord code s.phase 0#40) } }

/-- The state a fatal error with status `code` leaves (R87, spec/60_exceptions.md R245): as before the command, but for PHASE,
ERRCODE, OUTLEN, RDPTR and the response. -/
def State.Failed (s : State) (code : BitVec 8) : State :=
  { s with
    phase := .error
    errcode := code
    outlen := 0#40
    rdptr := 0#40
    port := { s.port with rsp := some (rspWord code .error 0#40) } }

/-- Every register of spec/10_state.md R23 to R38, and every entry of FREQ, at its reset value (R53). -/
def State.RegsReset (s : State) : Prop :=
  s.phase = .idle ∧ s.cv = false ∧ s.shape = .none ∧ s.errcode = 0x00#8 ∧ s.total = 0#32 ∧ s.nleaves = 0#9 ∧
  s.nnodes = 0#10 ∧ s.root = 0#9 ∧ s.encBits = 0#40 ∧ s.acc = 0#8 ∧ s.accn = 0#3 ∧ s.decTarget = 0#40 ∧
  s.decConsumed = 0#40 ∧ s.walk = 0#9 ∧ s.outlen = 0#40 ∧ s.rdptr = 0#40 ∧ ∀ sym, s.freqAt sym = 0#32

/-- The phase conditions of spec/30_encoding.md R89, row by row of its table. -/
def phaseLegal (i : Instr) (s : State) : Bool :=
  match i with
  | .nop | .clr | .sess | .rdreg _ | .rdfreq _ | .rdnode _ _ => true
  | .facc _ | .fset _ _ | .build => s.phase == .idle
  | .genc => s.phase == .built
  | .rdcode _ _ => s.cv
  | .encb _ | .encf => s.phase == .coded || s.phase == .encoding
  | .decs _ => s.phase == .built || s.phase == .coded
  | .decb _ | .decf => s.phase == .decoding
  | .rdout => s.phase == .done

/-! ## Sequences of commands -/

/-- Accepted commands one after the other, whatever their responses (spec/20_memory.md R71): the last one's is still pending
afterwards. The operations of Machine/Operation.lean read every response instead. -/
def runAll : List Instr → State → Host.Outcome State Fault Refusal
  | [], s => .next s
  | i :: is, s =>
    match exec i s with
    | .next t => runAll is t
    | .fault f => .fault f
    | .refused r => .refused r

/-! ## Trees in declarative words -/

/-- The symbols with a non-zero count, ascending (spec/41_tree.md R144). -/
def State.presentSyms (s : State) : List Byte :=
  allSymbols.filter fun sym => s.freqAt sym != 0#32

/-- The frequency table as FLOAD items: each symbol with a non-zero count, and its count (spec/45_control.md R226). -/
def State.tableItems (s : State) : List (Byte × Count) :=
  s.presentSyms.map fun sym => (sym, s.freqAt sym)

/-- Node `i` is in the priority collection when node `m` is made: it exists, and no internal node made before `m` has taken it
as a child (R140). -/
def State.LiveAt (s : State) (m i : Nat) : Prop :=
  i < m ∧ ∀ k, s.nleaves.toNat ≤ k → k < m →
    (s.nodeEntry k).left.toNat ≠ i ∧ (s.nodeEntry k).right.toNat ≠ i

/-- The total order of R141 on nodes: weight ascending, then index ascending. -/
def State.Lighter (s : State) (i j : Nat) : Prop :=
  (s.nodeEntry i).weight.toNat < (s.nodeEntry j).weight.toNat ∨
    ((s.nodeEntry i).weight = (s.nodeEntry j).weight ∧ i < j)

/-- Node `i` is a child of the internal node `m` (R146 item 2). -/
def State.ChildOf (s : State) (i m : Nat) : Prop :=
  s.nleaves.toNat ≤ m ∧ m < s.nnodes.toNat ∧
    ((s.nodeEntry m).left.toNat = i ∨ (s.nodeEntry m).right.toNat = i)

/-! ## What a host can tell apart -/

/-- Two states agree on every register, on FREQ, on the ports, and on the entries of NODE, CLEN, CBITS and OUTBUF that are
valid (R47 to R50); they may differ in the entries that hold no defined value (spec/70_reset_and_hazards.md R271). -/
structure State.SameVisible (s t : State) : Prop where
  rest : t = { s with node := t.node, clen := t.clen, cbits := t.cbits, outbuf := t.outbuf }
  node : ∀ k < s.nnodes.toNat, t.nodeEntry k = s.nodeEntry k
  codes : s.cv = true → t.clen = s.clen ∧ t.cbits = s.cbits
  out : ∀ k < s.outlen.toNat, Memory.read 0#8 t.outbuf k = Memory.read 0#8 s.outbuf k

/-! ## Codes, packed bits and walks as bit strings -/

/-- The low `n` bits of a value, the most significant first (R8). -/
def lowBits {w : Nat} (v : BitVec w) : (n : Nat) → List Bool
  | 0 => []
  | n + 1 => v.getLsbD n :: lowBits v n

/-- The code of a symbol as a bit string, its first bit first (R8); empty for a symbol with no code. -/
def State.codeOf (s : State) (sym : Byte) : List Bool :=
  lowBits (s.cbitsAt sym) (s.clenAt sym).toNat

/-- The bytes of OUTBUF below OUTLEN (R50). -/
def State.outBytes (s : State) : List Byte :=
  (List.range s.outlen.toNat).map fun k => Memory.read 0#8 s.outbuf k

/-- The bits of bytes in stream order: bit k of the stream is bit 7 − (k mod 8) of byte k / 8 (R62). -/
def bitsOfBytes (bytes : List Byte) : List Bool :=
  bytes.flatMap fun b => lowBits b 8

/-- The bits the packer has taken: those in whole bytes of OUTBUF, then the ACCN pending bits of ACC (R32, R182). -/
def State.takenBits (s : State) : List Bool :=
  bitsOfBytes s.outBytes ++ lowBits s.acc s.accn.toNat

/-- Following one bit from a node (R201): the child's index and its record. -/
def State.follow (s : State) (i : NodeIdx) (bit : Bool) : NodeIdx :=
  (s.nodeEntry i.toNat).child bit

/-- The node that a path of bits from `i` leads to (R163 item 5). -/
def State.followAll (s : State) (i : NodeIdx) (bits : List Bool) : NodeIdx :=
  bits.foldl s.follow i

/-- The symbols a walk of a general tree emits on a bit string, and where it ends (R201): at a leaf the symbol is emitted and
the walk goes back to ROOT. -/
def State.walkBits (s : State) : NodeIdx → List Bool → List Byte × NodeIdx
  | i, [] => ([], i)
  | i, bit :: bits =>
    let nxt := s.follow i bit
    if (s.nodeEntry nxt.toNat).leaf then
      let r := s.walkBits s.root bits
      ((s.nodeEntry nxt.toNat).sym :: r.1, r.2)
    else s.walkBits nxt bits

end Sys2Proof.Machine
end

