-- ==== Sys2Proof/Certificates/Slice0/Obligations.lean ====
section
/-! DEFINITION. The statements for the provers, each with the rule of spec/ it formalises. A frame is written as an equation:
`t = { s with x := t.x, … }` says that every field not named is unchanged. -/

open Sys2Proof Sys2Proof.Machine

/-! ## Encoding -/

/-- Decoding the word of a command gives the command back, with every operand at every value (R82, R83, R90, R97). -/
def Obligations.DecodeOfEncodeIsTheCommand : Prop :=
  ∀ i : Instr, decode (encode i) = .ok i

/-- Every accepted word is the word of the command it decodes to: no two words mean the same command (R83, R92, R94). -/
def Obligations.EncodeOfDecodeIsTheWord : Prop :=
  ∀ (w : Word) (i : Instr), decode w = .ok i → encode i = w

/-- The decoder, written from the opcode table's match and mask, against R83's and R90's tables of fields: the opcode check
first, then the zero fields, and a word that passes both is a command of its opcode's format (R88, R91, R92). -/
def Obligations.DecodeChecksOpcodeThenFields : Prop :=
  ∀ w : Word,
    (decode w = .error .opcode ↔ Format.ofOp (Fields.ofWord w).op = none) ∧
    ∀ fmt, Format.ofOp (Fields.ofWord w).op = some fmt →
      (decode w = .error .field ↔ (Fields.ofWord w).wellFormed fmt = false) ∧
      ((Fields.ofWord w).wellFormed fmt = true → ∃ i, decode w = .ok i ∧ i.format = fmt)

/-- The example words of R95, one for each format. -/
def Obligations.DecodesTheSyntaxExamples : Prop :=
  decode 0x2000000000000000#64 = .ok .build ∧
  decode 0x1061000000000000#64 = .ok (.facc 0x61#8) ∧
  decode 0x1161000000000005#64 = .ok (.fset 0x61#8 5#32) ∧
  decode 0x3162000000000000#64 = .ok (.rdcode 0x62#8 0#3) ∧
  decode 0x0300000000000005#64 = .ok (.rdreg 5#5) ∧
  decode 0x2100000000000208#64 = .ok (.rdnode true 8#9) ∧
  decode 0x5000000000000017#64 = .ok (.decs 23#40)

/-! ## The ports and the step -/

/-- A step runs the decoded command: with the response port free and a decodable word offered next, the step is `exec` of
that command once the offer is taken from the host's acts (R12, R81, R88). -/
def Obligations.StepRunsTheDecodedCommand : Prop :=
  ∀ (s : State) (w : Word) (rest : List HostAct) (i : Instr),
    s.port.host = .offer w :: rest → s.port.rsp = none → decode w = .ok i →
    step s = exec i { s with port := { s.port with host := rest } }

/-- A word placed by `withFetchWord` is the command the very next step runs. -/
def Obligations.FetchWordRunsNext : Prop :=
  ∀ (s : State) (w : Nat) (i : Instr), decodeTableWord 64 w = some i →
    step (s.withFetchWord 64 w) = exec i s.takeRsp

/-- R91: 239 of the 256 OP values are illegal, and a word with one of them is rejected with R_OPCODE, whatever its other bits,
with no state changed. -/
def Obligations.IllegalOpcodeIsRejected : Prop :=
  ((List.range 256).filter fun op => (Format.ofOp (BitVec.ofNat 8 op)).isNone).length = 239 ∧
  ∀ (s : State) (w : Word) (rest : List HostAct),
    s.port.host = .offer w :: rest → s.port.rsp = none → Format.ofOp (Fields.ofWord w).op = none →
    step s = .next { s with port := { s.port with host := rest, rsp := some (rspWord 0x80#8 s.phase 0#40) } }

/-- R92: a word with a legal OP and a 1 in a bit its format requires zero is rejected with R_FIELD and changes no state. -/
def Obligations.ReservedBitIsRejected : Prop :=
  ∀ (s : State) (w : Word) (rest : List HostAct) (fmt : Format),
    s.port.host = .offer w :: rest → s.port.rsp = none →
    Format.ofOp (Fields.ofWord w).op = some fmt → (Fields.ofWord w).wellFormed fmt = false →
    step s = .next { s with port := { s.port with host := rest, rsp := some (rspWord 0x81#8 s.phase 0#40) } }

/-- One command in flight (R81, R274): an offer while a response is pending is not accepted; a pending response is delivered
when the host takes it, in order; with nothing to do the machine holds its state (R257). -/
def Obligations.OneCommandInFlight : Prop :=
  ∀ (s : State) (rest : List HostAct),
    (∀ w r, s.port.host = .offer w :: rest → s.port.rsp = some r →
      step s = .next { s with port := { s.port with host := rest } }) ∧
    (∀ r, s.port.host = .take :: rest → s.port.rsp = some r →
      step s = .next { s with port := { host := rest, rsp := none, sent := s.port.sent ++ [r] } }) ∧
    (s.port.host = .take :: rest → s.port.rsp = none →
      step s = .next { s with port := { s.port with host := rest } }) ∧
    (s.port.host = [] → step s = .next s)

/-- Every accepted word gets exactly one response (R81, R240), whose PHASE field is PHASE after the command, whose reserved
bits are 0 (R84), whose DATA is 0 unless STATUS is OK (R86, R87), and whose STATUS is a code of R241 that some rule raises
(E_DEC_NULLCHILD is never produced). -/
def Obligations.OneResponsePerAcceptedWord : Prop :=
  ∀ (s t : State) (w : Word) (rest : List HostAct),
    s.port.host = .offer w :: rest → s.port.rsp = none → step s = .next t →
    ∃ r, t.port = { host := rest, rsp := some r, sent := s.port.sent } ∧
      rspPhase r = t.phase.bits ∧ rspReserved r = 0#12 ∧ (rspStatus r = 0x00#8 ∨ rspData r = 0#40) ∧
      rspStatus r ∈ [0x00#8, 0x01#8, 0x10#8, 0x11#8, 0x20#8, 0x21#8, 0x22#8, 0x80#8, 0x81#8, 0x82#8, 0x83#8, 0x84#8]

/-- `rst` sets every register and FREQ to its reset value, drops `rsp_valid`, abandons the command in flight with no response,
and leaves OUTCAP (R270, R43). That what the host has accepted stays is the model's (log 3). -/
def Obligations.ResetActResetsEverything : Prop :=
  ∀ (s : State) (rest : List HostAct), s.port.host = .rst :: rest →
    ∃ t, step s = .next t ∧ t.RegsReset ∧ t.outcap = s.outcap ∧
      t.port = { host := rest, rsp := none, sent := s.port.sent }

/-- The reset values of R53: every register 0, FREQ 0, OUTCAP the parameter OUTBUF_CAP, which is at least 1, and ID. -/
def Obligations.ResetValues : Prop :=
  State.reset.RegsReset ∧ State.reset.outcap = Config.outbufCap ∧ 1 ≤ Config.outbufCap.toNat ∧
  State.reset.readReg 0x0D#5 = some 0x4855464601#40

/-! ## Control -/

/-- NOP completes in every phase and changes no state; its response shows PHASE (R220). -/
def Obligations.NopChangesNothing : Prop :=
  ∀ s : State, exec .nop s = .next { s with port := { s.port with rsp := some (rspWord 0x00#8 s.phase 0#40) } }

/-- CLR completes in every phase: every register of R23 to R38 and FREQ at its reset value; NODE, CLEN, CBITS, OUTBUF and
OUTCAP are kept (R221). -/
def Obligations.ClrClearsRegistersAndFreq : Prop :=
  ∀ s : State, ∃ t, exec .clr s = .next t ∧ t.RegsReset ∧
    t.node = s.node ∧ t.clen = s.clen ∧ t.cbits = s.cbits ∧ t.outbuf = s.outbuf ∧ t.outcap = s.outcap ∧
    s.Answers t (rspWord 0x00#8 .idle 0#40)

/-- SESS completes in every phase: the session registers are cleared, WALK is ROOT, PHASE is the last ready phase, and the
tables are kept (R222). -/
def Obligations.SessKeepsTheTables : Prop :=
  ∀ s : State,
    let ready : Phase := if s.cv = true then .coded else if s.shape ≠ .none then .built else .idle
    exec .sess s = .next { s with
      errcode := 0x00#8, encBits := 0#40, acc := 0#8, accn := 0#3, decTarget := 0#40, decConsumed := 0#40,
      walk := s.root, outlen := 0#40, rdptr := 0#40, phase := ready,
      port := { s.port with rsp := some (rspWord 0x00#8 ready 0#40) } }

/-- RDREG of each of the fourteen registers completes in every phase, changes no state and answers the register's value
(R41), with STATUS (R39) and ACCSTAT (R40) given as numbers, OUTCAP (R43) and ID (R44); every other number is rejected with
R_RANGE (R223). -/
def Obligations.RdregReadsEachRegister : Prop :=
  ∀ s : State,
    (∀ p ∈ [
        (0x00, s.errcode.toNat * 2 ^ 8 + s.cv.toNat * 2 ^ 6 + s.shape.bits.toNat * 2 ^ 4 + s.phase.bits.toNat),
        (0x01, s.total.toNat), (0x02, s.nleaves.toNat), (0x03, s.nnodes.toNat), (0x04, s.root.toNat),
        (0x05, s.encBits.toNat), (0x06, s.acc.toNat * 2 ^ 8 + s.accn.toNat), (0x07, s.decTarget.toNat),
        (0x08, s.decConsumed.toNat), (0x09, s.walk.toNat), (0x0A, s.outlen.toNat), (0x0B, s.rdptr.toNat),
        (0x0C, s.outcap.toNat), (0x0D, 0x4855464601)],
      exec (.rdreg (BitVec.ofNat 5 p.1)) s =
        .next { s with port := { s.port with rsp := some (rspWord 0x00#8 s.phase (BitVec.ofNat 40 p.2)) } }) ∧
    ∀ r : BitVec 5, 0x0D < r.toNat → exec (.rdreg r) s = .next (s.Rejected 0x83#8)

/-- RDOUT in DONE answers the byte at RDPTR and advances RDPTR; when every byte has been read it is rejected with R_EMPTY; in
any other phase with R_PHASE (R224, R68). -/
def Obligations.RdoutReadsTheNextByte : Prop :=
  ∀ s : State,
    (∀ b, s.phase = .done → s.outlen.toNat ≤ s.outcap.toNat → s.outBytes[s.rdptr.toNat]? = some b →
      exec .rdout s = .next { s with
        rdptr := s.rdptr + 1#40
        port := { s.port with rsp := some (rspWord 0x00#8 .done (b.setWidth 40)) } }) ∧
    (s.phase = .done → s.rdptr = s.outlen → exec .rdout s = .next (s.Rejected 0x84#8)) ∧
    (s.phase ≠ .done → exec .rdout s = .next (s.Rejected 0x82#8))

/-! ## Frequency accumulator -/

/-- FACC in IDLE with room in TOTAL: one more in FREQ[s] and in TOTAL, every other count and all other state unchanged, and
the new count answered (R120). -/
def Obligations.FaccCountsOne : Prop :=
  ∀ (s : State) (sym : Byte), s.MemOk → s.phase = .idle → s.total.toNat < 2 ^ 32 - 1 →
    ∃ t, exec (.facc sym) s = .next t ∧
      t.freqAt sym = s.freqAt sym + 1#32 ∧ (∀ y, y ≠ sym → t.freqAt y = s.freqAt y) ∧
      t.total.toNat = s.total.toNat + 1 ∧
      t = { s with freq := t.freq, total := t.total, port := t.port } ∧
      s.Answers t (rspWord 0x00#8 .idle ((s.freqAt sym + 1#32).setWidth 40))

/-- FSET in IDLE with a new total that fits: FREQ[s] is the value and TOTAL the exact new total, which is answered; every other
count and all other state unchanged (R121). -/
def Obligations.FsetSetsTheCount : Prop :=
  ∀ (s : State) (sym : Byte) (v : Count), s.MemOk → s.TotalOk → s.phase = .idle →
    s.total.toNat - (s.freqAt sym).toNat + v.toNat ≤ 2 ^ 32 - 1 →
    ∃ t, exec (.fset sym v) s = .next t ∧
      t.freqAt sym = v ∧ (∀ y, y ≠ sym → t.freqAt y = s.freqAt y) ∧
      t.total.toNat = s.total.toNat - (s.freqAt sym).toNat + v.toNat ∧
      t = { s with freq := t.freq, total := t.total, port := t.port } ∧
      s.Answers t (rspWord 0x00#8 .idle (t.total.setWidth 40))

/-- FACC with TOTAL at 2^32 − 1, and FSET with a new total above it, are the fatal error E_FREQ_OVF, and FREQ and TOTAL keep
their values (R120, R121, R245). -/
def Obligations.FrequencyOverflowIsFatal : Prop :=
  ∀ (s : State) (sym : Byte) (v : Count), s.phase = .idle →
    (s.total.toNat = 2 ^ 32 - 1 → exec (.facc sym) s = .next (s.Failed 0x20#8)) ∧
    (s.TotalOk → 2 ^ 32 - 1 < s.total.toNat - (s.freqAt sym).toNat + v.toNat →
      exec (.fset sym v) s = .next (s.Failed 0x20#8))

/-- RDFREQ completes in every phase, changes no state and answers the count (R122). -/
def Obligations.RdfreqReadsTheCount : Prop :=
  ∀ (s : State) (sym : Byte),
    exec (.rdfreq sym) s =
      .next { s with port := { s.port with rsp := some (rspWord 0x00#8 s.phase ((s.freqAt sym).setWidth 40)) } }

/-- R123, from any state in IDLE with room: FACC once for each symbol of a sequence, in any order, adds to every FREQ entry the
number of its occurrences and to TOTAL the length. From reset the counts are the numbers of occurrences. -/
def Obligations.FaccSequenceCountsOccurrences : Prop :=
  ∀ (s : State) (S : List Byte), s.MemOk → s.TotalOk → s.phase = .idle → s.total.toNat + S.length ≤ 2 ^ 32 - 1 →
    ∃ t, runAll (faccs S) s = .next t ∧ t.phase = .idle ∧
      (∀ y, (t.freqAt y).toNat = (s.freqAt y).toNat + S.count y) ∧
      t.total.toNat = s.total.toNat + S.length

/-! ## Tree builder -/

/-- BUILD completes in IDLE for every FREQ (R140, R143, R144): NLEAVES is the number of present symbols n; SHAPE is ABSENT,
SINGLE or GENERAL; NNODES = 2n − 1 (0 for n = 0); ROOT is the last node (0 for n < 2); WALK is ROOT; entry k < n is the leaf
of the k-th present symbol with its count; entries from NNODES on and all other state are unchanged; n is answered. -/
def Obligations.BuildMakesTheTree : Prop :=
  ∀ s : State, s.MemOk → s.phase = .idle →
    ∃ t, exec .build s = .next t ∧
      t.phase = .built ∧
      t.nleaves.toNat = s.presentSyms.length ∧
      t.shape = (if s.presentSyms.length = 0 then .absent else if s.presentSyms.length = 1 then .single else .general) ∧
      t.nnodes.toNat = 2 * s.presentSyms.length - 1 ∧
      t.root.toNat = (if s.presentSyms.length < 2 then 0 else 2 * s.presentSyms.length - 2) ∧
      t.walk = t.root ∧
      (∀ k sym, s.presentSyms[k]? = some sym →
        t.nodeEntry k = { leaf := true, sym := sym, weight := s.freqAt sym, left := 0#9, right := 0#9 }) ∧
      (∀ k, t.nnodes.toNat ≤ k → t.nodeEntry k = s.nodeEntry k) ∧
      t = { s with
        phase := t.phase, shape := t.shape, nleaves := t.nleaves, nnodes := t.nnodes, root := t.root, walk := t.walk,
        node := t.node, port := t.port } ∧
      s.Answers t (rspWord 0x00#8 .built (t.nleaves.setWidth 40))

/-- The merges of R140 to R142, said without the algorithm: each internal node's left child is the least, under (weight, index),
of the nodes that exist and have no parent yet when it is made, its right child is the least of the others, and its weight is
the exact sum of theirs. -/
def Obligations.BuildMergesTheTwoLeast : Prop :=
  ∀ s : State, s.MemOk → s.TotalOk → s.phase = .idle →
    ∃ t, exec .build s = .next t ∧
      ∀ m, t.nleaves.toNat ≤ m → m < t.nnodes.toNat →
        let l := (t.nodeEntry m).left.toNat
        let r := (t.nodeEntry m).right.toNat
        (t.nodeEntry m).leaf = false ∧ (t.nodeEntry m).sym = 0#8 ∧
        t.LiveAt m l ∧ t.LiveAt m r ∧ l ≠ r ∧
        (∀ i, t.LiveAt m i → i ≠ l → t.Lighter l i) ∧
        (∀ i, t.LiveAt m i → i ≠ l → i ≠ r → t.Lighter r i) ∧
        (t.nodeEntry m).weight.toNat = (t.nodeEntry l).weight.toNat + (t.nodeEntry r).weight.toNat

/-- R146 items 2 and 3: children have smaller indices; every node but the root is the child of exactly one internal node; the
root is the child of none and its weight is TOTAL. -/
def Obligations.BuildMakesATree : Prop :=
  ∀ s : State, s.MemOk → s.TotalOk → s.phase = .idle → s.presentSyms ≠ [] →
    ∃ t, exec .build s = .next t ∧
      (∀ i m, t.ChildOf i m → i < m) ∧
      (∀ i, i < t.nnodes.toNat → i ≠ t.root.toNat → ∃! m, t.ChildOf i m) ∧
      (∀ m, ¬ t.ChildOf t.root.toNat m) ∧
      (t.nodeEntry t.root.toNat).weight = s.total

/-- R146 item 5: the tree depends on FREQ alone, so the same table, reloaded, gives the same nodes, NNODES and ROOT. -/
def Obligations.SameFreqGivesTheSameTree : Prop :=
  ∀ s s' t t' : State, s.MemOk → s'.MemOk → (∀ sym, s.freqAt sym = s'.freqAt sym) →
    s.phase = .idle → s'.phase = .idle → exec .build s = .next t → exec .build s' = .next t' →
    t.shape = t'.shape ∧ t.nleaves = t'.nleaves ∧ t.nnodes = t'.nnodes ∧ t.root = t'.root ∧
      ∀ k < t.nnodes.toNat, t.nodeEntry k = t'.nodeEntry k

/-- RDNODE completes in every phase for an index below NNODES, changes no state and answers the node in the layout of R145,
given as numbers; any other index is rejected with R_RANGE. (NNODES ≤ 511 is R29's range.) -/
def Obligations.RdnodeReadsTheNode : Prop :=
  ∀ (s : State) (sel : Bool) (i : NodeIdx),
    (i.toNat < s.nnodes.toNat → s.nnodes.toNat ≤ 511 →
      let n := s.nodeEntry i.toNat
      let d := if sel = true then
          n.leaf.toNat * 2 ^ 26 + n.sym.toNat * 2 ^ 18 + n.right.toNat * 2 ^ 9 + n.left.toNat
        else n.leaf.toNat * 2 ^ 32 + n.weight.toNat
      exec (.rdnode sel i) s =
        .next { s with port := { s.port with rsp := some (rspWord 0x00#8 s.phase (BitVec.ofNat 40 d)) } }) ∧
    (s.nnodes.toNat ≤ i.toNat → exec (.rdnode sel i) s = .next (s.Rejected 0x83#8))

/-! ## Code table generator -/

/-- GENC completes in BUILT for every tree BUILD makes (R160): CV is 1, PHASE CODED, only CLEN and CBITS are written besides;
an absent tree has no code, and a single leaf's code is "0" (R162). -/
def Obligations.GencMakesTheCodeTable : Prop :=
  ∀ s : State, s.Inv → s.phase = .built →
    ∃ t, exec .genc s = .next t ∧ t.cv = true ∧ t.phase = .coded ∧
      t = { s with cv := t.cv, phase := t.phase, clen := t.clen, cbits := t.cbits, port := t.port } ∧
      s.Answers t (rspWord 0x00#8 .coded 0#40) ∧
      (s.shape = .absent → ∀ sym, t.clenAt sym = 0#8 ∧ t.cbitsAt sym = 0#255) ∧
      (s.shape = .single →
        ∀ sym, t.cbitsAt sym = 0#255 ∧ t.clenAt sym = (if sym = (s.nodeEntry 0).sym then 1#8 else 0#8))

/-- The codes GENC makes of a general tree are the paths to the leaves (R160, R163 items 1, 2 and 5): a symbol has a code
exactly when its count is not 0, of 1 to NLEAVES − 1 bits, nothing above it in CBITS (R49); from ROOT, left on 0 and right on
1, it leads to the symbol's leaf, through internal nodes. -/
def Obligations.GencCodesArePathsToLeaves : Prop :=
  ∀ s t : State, s.Inv → s.phase = .built → s.shape = .general → exec .genc s = .next t →
    ∀ sym,
      (t.clenAt sym ≠ 0#8 ↔ s.freqAt sym ≠ 0#32) ∧
      (t.clenAt sym).toNat ≤ s.nleaves.toNat - 1 ∧
      (t.cbitsAt sym).toNat < 2 ^ (t.clenAt sym).toNat ∧
      (t.clenAt sym ≠ 0#8 →
        (t.nodeEntry (t.followAll t.root (t.codeOf sym)).toNat).leaf = true ∧
        (t.nodeEntry (t.followAll t.root (t.codeOf sym)).toNat).sym = sym ∧
        ∀ p, p <+: t.codeOf sym → p ≠ t.codeOf sym → (t.nodeEntry (t.followAll t.root p).toNat).leaf = false)

/-- R163 item 3: no code is a prefix of another symbol's code. -/
def Obligations.CodesArePrefixFree : Prop :=
  ∀ s : State, s.Inv → s.cv = true → ∀ x y : Byte, x ≠ y → s.clenAt x ≠ 0#8 → s.clenAt y ≠ 0#8 →
    ¬ s.codeOf x <+: s.codeOf y

/-- R163 item 4: with a general tree the sum of 2^(−length) over the coded symbols is exactly 1, here times 2^255. -/
def Obligations.CodeLengthsMeetKraftEquality : Prop :=
  ∀ s : State, s.Inv → s.cv = true → s.shape = .general →
    ((List.range 256).map fun k =>
      let len := (s.clenAt (BitVec.ofNat 8 k)).toNat
      if len = 0 then 0 else 2 ^ (255 - len)).sum = 2 ^ 255

/-- RDCODE with CV = 1 completes in every phase, changes no state and answers the length and the 32-bit chunk, given as
numbers; with CV = 0 it is rejected with R_PHASE (R161). -/
def Obligations.RdcodeReadsTheCode : Prop :=
  ∀ (s : State) (sym : Byte) (w : BitVec 3),
    (s.cv = true →
      exec (.rdcode sym w) s = .next { s with port := { s.port with rsp := some (rspWord 0x00#8 s.phase (BitVec.ofNat 40
        ((s.clenAt sym).toNat * 2 ^ 32 + (s.cbitsAt sym).toNat / 2 ^ (32 * w.toNat) % 2 ^ 32))) } }) ∧
    (s.cv = false → exec (.rdcode sym w) s = .next (s.Rejected 0x82#8))

/-! ## Bit packer -/

/-- ENCB of a symbol with a code and with room completes (R180): the bits taken (whole bytes, then pending bits) grow by
exactly the symbol's code, most significant bit of each byte first (R62, R182); ENC_BITS grows by its length and is answered;
PHASE is ENCODING; bytes of OUTBUF outside the new ones and all other state are unchanged. -/
def Obligations.EncbAppendsTheCode : Prop :=
  ∀ (s : State) (sym : Byte), s.MemOk → s.phase = .coded ∨ s.phase = .encoding → s.clenAt sym ≠ 0#8 →
    s.encBits.toNat + (s.clenAt sym).toNat ≤ 2 ^ 40 - 1 →
    s.outlen.toNat + (s.accn.toNat + (s.clenAt sym).toNat) / 8 ≤ s.outcap.toNat →
    ∃ t, exec (.encb sym) s = .next t ∧
      t.takenBits = s.takenBits ++ s.codeOf sym ∧
      8 * t.outlen.toNat + t.accn.toNat = 8 * s.outlen.toNat + s.accn.toNat + (s.clenAt sym).toNat ∧
      t.encBits.toNat = s.encBits.toNat + (s.clenAt sym).toNat ∧ t.phase = .encoding ∧
      (∀ k, k < s.outlen.toNat ∨ t.outlen.toNat ≤ k →
        Memory.read 0#8 t.outbuf k = Memory.read 0#8 s.outbuf k) ∧
      t = { s with
        acc := t.acc, accn := t.accn, outbuf := t.outbuf, outlen := t.outlen, encBits := t.encBits, phase := t.phase,
        port := t.port } ∧
      s.Answers t (rspWord 0x00#8 .encoding t.encBits)

/-- ENCB's fatal checks in their order (R180, R184, R247): no code, then too many bits, then the first byte that does not fit
in OUTBUF; each undoes the whole command (R245). -/
def Obligations.EncbFatalChecksInOrder : Prop :=
  ∀ (s : State) (sym : Byte), s.phase = .coded ∨ s.phase = .encoding →
    (s.clenAt sym = 0#8 → exec (.encb sym) s = .next (s.Failed 0x01#8)) ∧
    (s.clenAt sym ≠ 0#8 → 2 ^ 40 - 1 < s.encBits.toNat + (s.clenAt sym).toNat →
      exec (.encb sym) s = .next (s.Failed 0x22#8)) ∧
    (s.clenAt sym ≠ 0#8 → s.encBits.toNat + (s.clenAt sym).toNat ≤ 2 ^ 40 - 1 →
      s.outlen.toNat ≤ s.outcap.toNat →
      s.outcap.toNat < s.outlen.toNat + (s.accn.toNat + (s.clenAt sym).toNat) / 8 →
      exec (.encb sym) s = .next (s.Failed 0x21#8))

/-- ENCF with room for the padded byte completes (R181): the bytes of OUTBUF are the bits taken, then 0 to 7 zero bits to a
multiple of 8 (R63, R182); OUTLEN is ceil(ENC_BITS / 8) (R183); ENC_BITS is unchanged and answered; PHASE is DONE. -/
def Obligations.EncfPadsAndFlushes : Prop :=
  ∀ s : State, s.MemOk → s.PackerOk → s.phase = .coded ∨ s.phase = .encoding →
    (s.accn ≠ 0#3 → s.outlen.toNat < s.outcap.toNat) →
    ∃ t, exec .encf s = .next t ∧
      bitsOfBytes t.outBytes = s.takenBits ++ List.replicate ((8 - s.accn.toNat) % 8) false ∧
      t.outlen.toNat = (s.encBits.toNat + 7) / 8 ∧ t.accn = 0#3 ∧ t.acc = 0#8 ∧ t.phase = .done ∧
      (∀ k, k ≠ s.outlen.toNat ∨ s.accn = 0#3 → Memory.read 0#8 t.outbuf k = Memory.read 0#8 s.outbuf k) ∧
      t = { s with
        acc := t.acc, accn := t.accn, outbuf := t.outbuf, outlen := t.outlen, phase := t.phase, port := t.port } ∧
      s.Answers t (rspWord 0x00#8 .done s.encBits)

/-- ENCF with bits pending and OUTBUF full is the fatal error E_OUT_OVF (R181, R245). -/
def Obligations.EncfOverflowIsFatal : Prop :=
  ∀ s : State, s.phase = .coded ∨ s.phase = .encoding → s.accn ≠ 0#3 → s.outlen = s.outcap →
    exec .encf s = .next (s.Failed 0x21#8)

/-! ## Bit unpacker -/

/-- DECS completes in BUILT and CODED for every count: DEC_TARGET is the count, DEC_CONSUMED 0, WALK ROOT, PHASE DECODING, and
nothing else changes; in any other phase it is rejected with R_PHASE (R200). -/
def Obligations.DecsOpensASession : Prop :=
  ∀ (s : State) (d : BitCount),
    (s.phase = .built ∨ s.phase = .coded →
      exec (.decs d) s = .next { s with
        decTarget := d, decConsumed := 0#40, walk := s.root, phase := .decoding,
        port := { s.port with rsp := some (rspWord 0x00#8 .decoding 0#40) } }) ∧
    (s.phase ≠ .built → s.phase ≠ .coded → exec (.decs d) s = .next (s.Rejected 0x82#8))

/-- DECB with a general tree and room in OUTBUF completes (R201): it consumes the byte's bits, the most significant first, up
to DEC_TARGET, and never examines the others; the symbols the walk over them meets are appended to the output and the walk
stands where they lead; OUTLEN is answered; bytes of OUTBUF outside the new ones and all other state are unchanged. -/
def Obligations.DecbWalksTheTree : Prop :=
  ∀ (s : State) (b : Byte), s.Inv → s.phase = .decoding → s.shape = .general →
    let bits := (lowBits b 8).take (s.decTarget.toNat - s.decConsumed.toNat)
    let out := s.walkBits s.walk bits
    s.outlen.toNat + out.1.length ≤ s.outcap.toNat →
    ∃ t, exec (.decb b) s = .next t ∧
      t.outBytes = s.outBytes ++ out.1 ∧ t.walk = out.2 ∧
      t.decConsumed.toNat = s.decConsumed.toNat + bits.length ∧
      t.outlen.toNat = s.outlen.toNat + out.1.length ∧
      (∀ k, k < s.outlen.toNat ∨ t.outlen.toNat ≤ k →
        Memory.read 0#8 t.outbuf k = Memory.read 0#8 s.outbuf k) ∧
      t = { s with
        decConsumed := t.decConsumed, walk := t.walk, outbuf := t.outbuf, outlen := t.outlen, port := t.port } ∧
      s.Answers t (rspWord 0x00#8 .decoding t.outlen)

/-- With a single leaf every consumed bit emits the one symbol, whatever its value (R201, R203). -/
def Obligations.DecbOfASingleLeafRepeatsTheSymbol : Prop :=
  ∀ (s : State) (b : Byte), s.MemOk → s.phase = .decoding → s.shape = .single →
    let n := min 8 (s.decTarget.toNat - s.decConsumed.toNat)
    s.outlen.toNat + n ≤ s.outcap.toNat →
    ∃ t, exec (.decb b) s = .next t ∧
      t.outBytes = s.outBytes ++ List.replicate n (s.nodeEntry 0).sym ∧
      t.decConsumed.toNat = s.decConsumed.toNat + n ∧
      t.outlen.toNat = s.outlen.toNat + n ∧
      (∀ k, k < s.outlen.toNat ∨ t.outlen.toNat ≤ k →
        Memory.read 0#8 t.outbuf k = Memory.read 0#8 s.outbuf k) ∧
      t = { s with decConsumed := t.decConsumed, outbuf := t.outbuf, outlen := t.outlen, port := t.port } ∧
      s.Answers t (rspWord 0x00#8 .decoding t.outlen)

/-- With an absent tree DECB changes nothing and DECF succeeds, whatever DEC_TARGET and the bytes (R204). -/
def Obligations.AbsentTreeDecodesToNothing : Prop :=
  ∀ (s : State) (b : Byte), s.phase = .decoding → s.shape = .absent →
    exec (.decb b) s = .next { s with port := { s.port with rsp := some (rspWord 0x00#8 .decoding s.outlen) } } ∧
    exec .decf s =
      .next { s with phase := .done, port := { s.port with rsp := some (rspWord 0x00#8 .done s.outlen) } }

/-- DECB with a symbol that does not fit in OUTBUF is the fatal error E_OUT_OVF, and the whole DECB is undone (R201, R245). -/
def Obligations.DecbOverflowIsFatal : Prop :=
  ∀ (s : State) (b : Byte), s.Inv → s.phase = .decoding →
    (s.shape = .general →
      s.outcap.toNat < s.outlen.toNat +
        (s.walkBits s.walk ((lowBits b 8).take (s.decTarget.toNat - s.decConsumed.toNat))).1.length →
      exec (.decb b) s = .next (s.Failed 0x21#8)) ∧
    (s.shape = .single →
      s.outcap.toNat < s.outlen.toNat + min 8 (s.decTarget.toNat - s.decConsumed.toNat) →
      exec (.decb b) s = .next (s.Failed 0x21#8))

/-- DECF of a tree that is not absent (R202, R205): fewer bits than `dataBits` is E_DEC_SHORT; else a general tree with the walk
off ROOT is E_DEC_INCOMPLETE; else PHASE is DONE, OUTLEN is answered and nothing else changes. -/
def Obligations.DecfChecksTheEnd : Prop :=
  ∀ s : State, s.phase = .decoding → s.shape ≠ .absent →
    (s.decConsumed.toNat < s.decTarget.toNat → exec .decf s = .next (s.Failed 0x10#8)) ∧
    (s.decTarget.toNat ≤ s.decConsumed.toNat → s.shape = .general → s.walk ≠ s.root →
      exec .decf s = .next (s.Failed 0x11#8)) ∧
    (s.decTarget.toNat ≤ s.decConsumed.toNat → (s.shape = .general → s.walk = s.root) →
      exec .decf s =
        .next { s with phase := .done, port := { s.port with rsp := some (rspWord 0x00#8 .done s.outlen) } })

/-- Walking the tree over the codes of a sequence, one after the other, emits the sequence and ends at ROOT (R163 item 5, R201,
R206). -/
def Obligations.WalkOverCodesGivesTheSymbols : Prop :=
  ∀ (s : State) (S : List Byte), s.Inv → s.cv = true → s.shape = .general → (∀ x ∈ S, s.clenAt x ≠ 0#8) →
    s.walkBits s.root (S.flatMap s.codeOf) = (S, s.root)

/-- R206, the round trip, over the command sequences of R225 and R226: where the encode of a sequence ends in DONE, a decode of
its frequency table, `dataBits` and packed bytes, by any part whose OUTBUF holds the sequence, ends in DONE with the sequence.
The same of the operations, which read every response: the decode of what an encode gave succeeds and gives the sequence. -/
def Obligations.DecodeOfEncodeIsTheSequence : Prop :=
  ∀ (s u : State) (S : List Byte), s.Inv → u.Inv → S.length ≤ 2 ^ 32 - 1 → S.length ≤ u.outcap.toNat →
    (∀ t, runAll (encodeOp S) s = .next t → t.phase = .done →
      ∃ v, runAll (decodeOp t.tableItems t.encBits t.outBytes) u = .next v ∧ v.phase = .done ∧ v.outBytes = S) ∧
    (∀ r t, hostEncode S s = .ok r t → ∃ v, hostDecode r.table r.dataBits r.packed u = .ok S v)

/-- R206, corruption: the same decode given only a proper prefix of the packed bytes, with `dataBits` unchanged, ends in ERROR
with E_DEC_SHORT, and no output; the operation fails with a `DecodingError` (R226, R244). -/
def Obligations.TruncatedStreamIsShort : Prop :=
  ∀ (s u : State) (S P : List Byte), s.Inv → u.Inv → S.length ≤ 2 ^ 32 - 1 → S.length ≤ u.outcap.toNat →
    (∀ t, runAll (encodeOp S) s = .next t → t.phase = .done → P <+: t.outBytes → P ≠ t.outBytes →
      ∃ v, runAll (decodeOp t.tableItems t.encBits P) u = .next v ∧
        v.phase = .error ∧ v.errcode = 0x10#8 ∧ v.outlen = 0#40) ∧
    (∀ r t, hostEncode S s = .ok r t → P <+: r.packed → P ≠ r.packed →
      ∃ v, hostDecode r.table r.dataBits P u = .failed .decodingError 0x10#8 v)

/-! ## Errors, phases and the machine as a whole -/

/-- R89: a command outside its legal phases is rejected with R_PHASE and changes no state. -/
def Obligations.WrongPhaseIsRejected : Prop :=
  ∀ (i : Instr) (s : State), phaseLegal i s = false → exec i s = .next (s.Rejected 0x82#8)

/-- R88, R89: in a legal phase no command answers R_PHASE, and no decoded command answers R_OPCODE or R_FIELD. -/
def Obligations.LegalPhaseIsNotRejectedForPhase : Prop :=
  ∀ (i : Instr) (s t : State) (r : Word), phaseLegal i s = true → exec i s = .next t → t.port.rsp = some r →
    rspStatus r ∉ [0x80#8, 0x81#8, 0x82#8]

/-- R245: a command that answers a fatal status leaves exactly the state before it with the four writes of the fatal-error
entry: nothing of the command is kept. -/
def Obligations.FatalErrorIsPrecise : Prop :=
  ∀ (i : Instr) (s t : State) (r : Word), exec i s = .next t → t.port.rsp = some r →
    0x00#8 < rspStatus r → rspStatus r < 0x80#8 → t = s.Failed (rspStatus r)

/-- R242: a command that answers a rejection changes no state at all. -/
def Obligations.RejectionChangesNothing : Prop :=
  ∀ (i : Instr) (s t : State) (r : Word), exec i s = .next t → t.port.rsp = some r →
    0x80#8 ≤ rspStatus r → t = s.Rejected (rspStatus r)

/-- R248, R249: no command but SESS and CLR leaves phase ERROR (reset, which R248 also names, is no command:
ResetActResetsEverything), and no command in phase ERROR raises a fatal error; a rejection there leaves ERRCODE as it was. -/
def Obligations.ErrorIsLeftOnlyBySessAndClr : Prop :=
  ∀ (i : Instr) (s t : State) (r : Word), s.phase = .error → exec i s = .next t → t.port.rsp = some r →
    (t.phase ≠ .error → i = .sess ∨ i = .clr) ∧
    (rspStatus r = 0x00#8 ∨ (0x80#8 ≤ rspStatus r ∧ t.errcode = s.errcode))

/-- R43, R44: no step changes OUTCAP, and ID reads the same in every state. -/
def Obligations.OutcapAndIdAreConstant : Prop :=
  ∀ s t : State, step s = .next t → t.outcap = s.outcap ∧ t.readReg 0x0D#5 = some 0x4855464601#40

/-- R275: the frequency table is frozen from BUILD until CLR: outside IDLE no command but CLR changes FREQ or TOTAL. -/
def Obligations.FreqIsFrozenOutsideIdle : Prop :=
  ∀ (i : Instr) (s t : State), s.phase ≠ .idle → exec i s = .next t → i ≠ .clr → t.freq = s.freq ∧ t.total = s.total

/-- R271, R272: the entries that hold no defined value are unobservable. Two states that differ in nothing else answer every
command alike and differ in nothing else afterwards. -/
def Obligations.UndefinedEntriesAreUnobservable : Prop :=
  ∀ (i : Instr) (s s' t : State), s.Inv → s'.Inv → s.SameVisible s' → exec i s = .next t →
    ∃ t', exec i s' = .next t' ∧ t.SameVisible t'

/-- R272: after CLR no command can tell the state from the state after reset of the same part with the same ports. -/
def Obligations.ClrLooksLikeReset : Prop :=
  ∀ s t : State, exec .clr s = .next t → t.SameVisible { State.reset with outcap := s.outcap, port := t.port }

/-! ## Invariants -/

/-- The invariant of R51 holds at reset, whatever the host will do. -/
def Obligations.ResetMeetsTheInvariant : Prop :=
  ∀ acts : List HostAct, State.Inv { State.reset with port := { State.reset.port with host := acts } }

/-- Every step keeps every memory in its canonical form, with no entry listed beyond the memory's size. -/
def Obligations.StepKeepsTheMemoryForm : Prop :=
  ∀ s t : State, s.MemOk → step s = .next t → t.MemOk

/-- R51 item 1: every step keeps TOTAL equal to the sum of FREQ. -/
def Obligations.StepKeepsTheTotal : Prop :=
  ∀ s t : State, s.MemOk → s.TotalOk → step s = .next t → t.TotalOk

/-- R51 items 2, 3, 5, 6, 7, 8 (both sentences) and 10, with CV = 1 implying a shape (item 4): every step keeps what the phases
say of the registers. -/
def Obligations.StepKeepsTheSessionRegisters : Prop :=
  ∀ s t : State,
    s.PhaseOk ∧ s.SessionOk ∧ s.BoundsOk ∧ s.PackerOk ∧ s.DoneOk ∧ s.WalkOk → step s = .next t →
    t.PhaseOk ∧ t.SessionOk ∧ t.BoundsOk ∧ t.PackerOk ∧ t.DoneOk ∧ t.WalkOk

/-- R51, whole: every step keeps the invariant, the tree and the code table included. -/
def Obligations.StepKeepsTheInvariant : Prop :=
  ∀ s t : State, s.Inv → step s = .next t → t.Inv

/-- R240: from every state that meets the invariant the machine goes on: no step stops, whatever the host does. -/
def Obligations.EveryStepAnswers : Prop :=
  ∀ s : State, s.Inv → ∃ t, step s = .next t
end

