-- ==== Sys2Proof/Laws/Memory.lean ====
section
/-! SUPPORT. The laws of the memories (Machine/Operands.lean and Machine/Ops.lean, `Memory`): a read after a write, and the
canonical form, which every write keeps and in which equal contents are equal lists. -/

namespace Sys2Proof.Machine

variable {α : Type} [DecidableEq α] {d v : α} {size lo a b : Nat} {m m' : List (Nat × α)}

omit [DecidableEq α] in
@[simp] theorem Memory.read_nil : Memory.read d [] a = d := rfl

@[simp] theorem Memory.wf_nil : Memory.wf d size [] = true := rfl

/-- One entry of a memory in canonical form. -/
theorem Memory.wfFrom_cons {k : Nat} :
    Memory.wfFrom d size lo ((k, v) :: m) = true ↔
      (lo ≤ k ∧ k < size ∧ v ≠ d) ∧ Memory.wfFrom d size (k + 1) m = true := by
  simp [Memory.wfFrom]

/-- The bound below may be lowered. -/
theorem Memory.wfFrom_mono {lo' : Nat} (h : Memory.wfFrom d size lo m = true) (hlo : lo' ≤ lo) :
    Memory.wfFrom d size lo' m = true := by
  cases m with
  | nil => rfl
  | cons e m =>
    rw [Memory.wfFrom_cons] at h ⊢
    exact ⟨⟨hlo.trans h.1.1, h.1.2⟩, h.2⟩

/-- Nothing is listed below the bound. -/
theorem Memory.read_below (h : Memory.wfFrom d size lo m = true) (ha : a < lo) : Memory.read d m a = d := by
  induction m generalizing lo with
  | nil => rfl
  | cons e m ih =>
    obtain ⟨k, x⟩ := e
    rw [Memory.wfFrom_cons] at h
    rw [Memory.read, if_neg (by omega)]
    exact ih h.2 (by omega)

/-- Nothing is listed at or above the size. -/
theorem Memory.read_beyond (h : Memory.wfFrom d size lo m = true) (ha : size ≤ a) : Memory.read d m a = d := by
  induction m generalizing lo with
  | nil => rfl
  | cons e m ih =>
    obtain ⟨k, x⟩ := e
    rw [Memory.wfFrom_cons] at h
    rw [Memory.read, if_neg (by omega)]
    exact ih h.2

theorem Memory.read_write_same_from (h : Memory.wfFrom d size lo m = true) :
    Memory.read d (Memory.write d m a v) a = v := by
  induction m generalizing lo with
  | nil => by_cases hv : v = d <;> simp [Memory.write, Memory.read, hv]
  | cons e m ih =>
    obtain ⟨k, x⟩ := e
    rw [Memory.wfFrom_cons] at h
    rw [Memory.write]
    split
    · split
      · rename_i hlt hv
        rw [Memory.read, if_neg (by omega), hv]
        exact Memory.read_below h.2 (by omega)
      · simp [Memory.read]
    · split
      · split
        · rename_i hk hv
          rw [hv]
          exact Memory.read_below h.2 (by omega)
        · simp [Memory.read]
      · rw [Memory.read, if_neg (by omega)]
        exact ih h.2

/-- A read after a write to the same index gives the value written. -/
theorem Memory.read_write_same (h : Memory.wf d size m = true) : Memory.read d (Memory.write d m a v) a = v :=
  Memory.read_write_same_from h

/-- A write leaves every other index alone. -/
theorem Memory.read_write_other (hne : b ≠ a) :
    Memory.read d (Memory.write d m a v) b = Memory.read d m b := by
  induction m with
  | nil =>
    by_cases hv : v = d
    · simp [Memory.write, hv]
    · simp [Memory.write, hv, Memory.read, Ne.symm hne]
  | cons e m ih =>
    obtain ⟨k, x⟩ := e
    rw [Memory.write]
    split
    · split
      · rfl
      · rw [Memory.read, if_neg (Ne.symm hne)]
    · split
      · rename_i hk
        subst hk
        split
        · rw [Memory.read, if_neg (Ne.symm hne)]
        · rw [Memory.read, Memory.read, if_neg (Ne.symm hne), if_neg (Ne.symm hne)]
      · rw [Memory.read, Memory.read, ih]

theorem Memory.wfFrom_write (h : Memory.wfFrom d size lo m = true) (hlo : lo ≤ a) (ha : a < size) :
    Memory.wfFrom d size lo (Memory.write d m a v) = true := by
  induction m generalizing lo with
  | nil =>
    rw [Memory.write]
    split
    · rfl
    · rename_i hv
      exact Memory.wfFrom_cons.2 ⟨⟨hlo, ha, hv⟩, rfl⟩
  | cons e m ih =>
    obtain ⟨k, x⟩ := e
    have hc := Memory.wfFrom_cons.1 h
    rw [Memory.write]
    split
    · split
      · exact h
      · rename_i hlt hv
        exact Memory.wfFrom_cons.2 ⟨⟨hlo, ha, hv⟩, Memory.wfFrom_cons.2 ⟨⟨by omega, hc.1.2⟩, hc.2⟩⟩
    · split
      · rename_i hk
        subst hk
        split
        · exact Memory.wfFrom_mono hc.2 (by omega)
        · rename_i hv
          exact Memory.wfFrom_cons.2 ⟨⟨hlo, ha, hv⟩, hc.2⟩
      · exact Memory.wfFrom_cons.2 ⟨hc.1, ih hc.2 (by omega)⟩

/-- A write inside the memory keeps the canonical form. -/
theorem Memory.wf_write (h : Memory.wf d size m = true) (ha : a < size) :
    Memory.wf d size (Memory.write d m a v) = true :=
  Memory.wfFrom_write h (Nat.zero_le a) ha

theorem Memory.ext_from (h : Memory.wfFrom d size lo m = true) (h' : Memory.wfFrom d size lo m' = true)
    (heq : ∀ a, Memory.read d m a = Memory.read d m' a) : m = m' := by
  induction m generalizing lo m' with
  | nil =>
    cases m' with
    | nil => rfl
    | cons e m' =>
      have hc := Memory.wfFrom_cons.1 h'
      have := heq e.1
      simp only [Memory.read, if_true] at this
      exact absurd this.symm hc.1.2.2
  | cons e m ih =>
    have hc := Memory.wfFrom_cons.1 h
    cases m' with
    | nil =>
      have := heq e.1
      simp only [Memory.read, if_true] at this
      exact absurd this hc.1.2.2
    | cons e' m' =>
      have hc' := Memory.wfFrom_cons.1 h'
      have hk : e.1 = e'.1 := by
        rcases Nat.lt_trichotomy e.1 e'.1 with hlt | heq' | hlt
        · have := heq e.1
          rw [Memory.read, if_pos rfl, Memory.read, if_neg (by omega), Memory.read_below hc'.2 (by omega)] at this
          exact absurd this hc.1.2.2
        · exact heq'
        · have := heq e'.1
          rw [Memory.read, if_neg (by omega), Memory.read_below hc.2 (by omega), Memory.read, if_pos rfl] at this
          exact absurd this.symm hc'.1.2.2
      have hv : e.2 = e'.2 := by
        have := heq e.1
        rwa [Memory.read, if_pos rfl, Memory.read, if_pos hk.symm] at this
      have hm : m = m' := by
        refine ih hc.2 (hk ▸ hc'.2) fun a => ?_
        by_cases ha : e.1 = a
        · rw [Memory.read_below hc.2 (by omega), Memory.read_below hc'.2 (by omega)]
        · have := heq a
          rwa [Memory.read, if_neg ha, Memory.read, if_neg (hk ▸ ha)] at this
      rw [hm, Prod.ext hk hv]

/-- Two memories in canonical form with the same contents are the same list. -/
theorem Memory.ext (h : Memory.wf d size m = true) (h' : Memory.wf d size m' = true)
    (heq : ∀ a, Memory.read d m a = Memory.read d m' a) : m = m' :=
  Memory.ext_from h h' heq

end Sys2Proof.Machine
end

