-- ==== Sys2Proof/Laws/State.lean ====
section
/-! SUPPORT. One lemma per field of State per shared update, true by rfl, so that no proof unfolds a record update. -/

namespace Sys2Proof.Machine

variable (s : State)

/-! ### answer -/

@[simp] theorem State.answer_phase (w : Word) : (s.answer w).phase = s.phase := rfl
@[simp] theorem State.answer_cv (w : Word) : (s.answer w).cv = s.cv := rfl
@[simp] theorem State.answer_shape (w : Word) : (s.answer w).shape = s.shape := rfl
@[simp] theorem State.answer_errcode (w : Word) : (s.answer w).errcode = s.errcode := rfl
@[simp] theorem State.answer_total (w : Word) : (s.answer w).total = s.total := rfl
@[simp] theorem State.answer_nleaves (w : Word) : (s.answer w).nleaves = s.nleaves := rfl
@[simp] theorem State.answer_nnodes (w : Word) : (s.answer w).nnodes = s.nnodes := rfl
@[simp] theorem State.answer_root (w : Word) : (s.answer w).root = s.root := rfl
@[simp] theorem State.answer_encBits (w : Word) : (s.answer w).encBits = s.encBits := rfl
@[simp] theorem State.answer_acc (w : Word) : (s.answer w).acc = s.acc := rfl
@[simp] theorem State.answer_accn (w : Word) : (s.answer w).accn = s.accn := rfl
@[simp] theorem State.answer_decTarget (w : Word) : (s.answer w).decTarget = s.decTarget := rfl
@[simp] theorem State.answer_decConsumed (w : Word) : (s.answer w).decConsumed = s.decConsumed := rfl
@[simp] theorem State.answer_walk (w : Word) : (s.answer w).walk = s.walk := rfl
@[simp] theorem State.answer_outlen (w : Word) : (s.answer w).outlen = s.outlen := rfl
@[simp] theorem State.answer_rdptr (w : Word) : (s.answer w).rdptr = s.rdptr := rfl
@[simp] theorem State.answer_outcap (w : Word) : (s.answer w).outcap = s.outcap := rfl
@[simp] theorem State.answer_freq (w : Word) : (s.answer w).freq = s.freq := rfl
@[simp] theorem State.answer_node (w : Word) : (s.answer w).node = s.node := rfl
@[simp] theorem State.answer_clen (w : Word) : (s.answer w).clen = s.clen := rfl
@[simp] theorem State.answer_cbits (w : Word) : (s.answer w).cbits = s.cbits := rfl
@[simp] theorem State.answer_outbuf (w : Word) : (s.answer w).outbuf = s.outbuf := rfl
@[simp] theorem State.answer_port (w : Word) : (s.answer w).port = { s.port with rsp := some w } := rfl

/-! ### respond -/

@[simp] theorem State.respond_phase (d : Data) : (s.respond d).phase = s.phase := rfl
@[simp] theorem State.respond_cv (d : Data) : (s.respond d).cv = s.cv := rfl
@[simp] theorem State.respond_shape (d : Data) : (s.respond d).shape = s.shape := rfl
@[simp] theorem State.respond_errcode (d : Data) : (s.respond d).errcode = s.errcode := rfl
@[simp] theorem State.respond_total (d : Data) : (s.respond d).total = s.total := rfl
@[simp] theorem State.respond_nleaves (d : Data) : (s.respond d).nleaves = s.nleaves := rfl
@[simp] theorem State.respond_nnodes (d : Data) : (s.respond d).nnodes = s.nnodes := rfl
@[simp] theorem State.respond_root (d : Data) : (s.respond d).root = s.root := rfl
@[simp] theorem State.respond_encBits (d : Data) : (s.respond d).encBits = s.encBits := rfl
@[simp] theorem State.respond_acc (d : Data) : (s.respond d).acc = s.acc := rfl
@[simp] theorem State.respond_accn (d : Data) : (s.respond d).accn = s.accn := rfl
@[simp] theorem State.respond_decTarget (d : Data) : (s.respond d).decTarget = s.decTarget := rfl
@[simp] theorem State.respond_decConsumed (d : Data) : (s.respond d).decConsumed = s.decConsumed := rfl
@[simp] theorem State.respond_walk (d : Data) : (s.respond d).walk = s.walk := rfl
@[simp] theorem State.respond_outlen (d : Data) : (s.respond d).outlen = s.outlen := rfl
@[simp] theorem State.respond_rdptr (d : Data) : (s.respond d).rdptr = s.rdptr := rfl
@[simp] theorem State.respond_outcap (d : Data) : (s.respond d).outcap = s.outcap := rfl
@[simp] theorem State.respond_freq (d : Data) : (s.respond d).freq = s.freq := rfl
@[simp] theorem State.respond_node (d : Data) : (s.respond d).node = s.node := rfl
@[simp] theorem State.respond_clen (d : Data) : (s.respond d).clen = s.clen := rfl
@[simp] theorem State.respond_cbits (d : Data) : (s.respond d).cbits = s.cbits := rfl
@[simp] theorem State.respond_outbuf (d : Data) : (s.respond d).outbuf = s.outbuf := rfl
@[simp] theorem State.respond_port (d : Data) : (s.respond d).port = { s.port with rsp := some (rspWord statusOk s.phase d) } := rfl

/-! ### reject -/

@[simp] theorem State.reject_phase (c : RejectCode) : (s.reject c).phase = s.phase := rfl
@[simp] theorem State.reject_cv (c : RejectCode) : (s.reject c).cv = s.cv := rfl
@[simp] theorem State.reject_shape (c : RejectCode) : (s.reject c).shape = s.shape := rfl
@[simp] theorem State.reject_errcode (c : RejectCode) : (s.reject c).errcode = s.errcode := rfl
@[simp] theorem State.reject_total (c : RejectCode) : (s.reject c).total = s.total := rfl
@[simp] theorem State.reject_nleaves (c : RejectCode) : (s.reject c).nleaves = s.nleaves := rfl
@[simp] theorem State.reject_nnodes (c : RejectCode) : (s.reject c).nnodes = s.nnodes := rfl
@[simp] theorem State.reject_root (c : RejectCode) : (s.reject c).root = s.root := rfl
@[simp] theorem State.reject_encBits (c : RejectCode) : (s.reject c).encBits = s.encBits := rfl
@[simp] theorem State.reject_acc (c : RejectCode) : (s.reject c).acc = s.acc := rfl
@[simp] theorem State.reject_accn (c : RejectCode) : (s.reject c).accn = s.accn := rfl
@[simp] theorem State.reject_decTarget (c : RejectCode) : (s.reject c).decTarget = s.decTarget := rfl
@[simp] theorem State.reject_decConsumed (c : RejectCode) : (s.reject c).decConsumed = s.decConsumed := rfl
@[simp] theorem State.reject_walk (c : RejectCode) : (s.reject c).walk = s.walk := rfl
@[simp] theorem State.reject_outlen (c : RejectCode) : (s.reject c).outlen = s.outlen := rfl
@[simp] theorem State.reject_rdptr (c : RejectCode) : (s.reject c).rdptr = s.rdptr := rfl
@[simp] theorem State.reject_outcap (c : RejectCode) : (s.reject c).outcap = s.outcap := rfl
@[simp] theorem State.reject_freq (c : RejectCode) : (s.reject c).freq = s.freq := rfl
@[simp] theorem State.reject_node (c : RejectCode) : (s.reject c).node = s.node := rfl
@[simp] theorem State.reject_clen (c : RejectCode) : (s.reject c).clen = s.clen := rfl
@[simp] theorem State.reject_cbits (c : RejectCode) : (s.reject c).cbits = s.cbits := rfl
@[simp] theorem State.reject_outbuf (c : RejectCode) : (s.reject c).outbuf = s.outbuf := rfl
@[simp] theorem State.reject_port (c : RejectCode) : (s.reject c).port = { s.port with rsp := some (rspWord c.bits s.phase 0#40) } := rfl

/-! ### raiseFatal -/

@[simp] theorem State.raiseFatal_phase (c : FatalCode) : (s.raiseFatal c).phase = .error := rfl
@[simp] theorem State.raiseFatal_cv (c : FatalCode) : (s.raiseFatal c).cv = s.cv := rfl
@[simp] theorem State.raiseFatal_shape (c : FatalCode) : (s.raiseFatal c).shape = s.shape := rfl
@[simp] theorem State.raiseFatal_errcode (c : FatalCode) : (s.raiseFatal c).errcode = c.bits := rfl
@[simp] theorem State.raiseFatal_total (c : FatalCode) : (s.raiseFatal c).total = s.total := rfl
@[simp] theorem State.raiseFatal_nleaves (c : FatalCode) : (s.raiseFatal c).nleaves = s.nleaves := rfl
@[simp] theorem State.raiseFatal_nnodes (c : FatalCode) : (s.raiseFatal c).nnodes = s.nnodes := rfl
@[simp] theorem State.raiseFatal_root (c : FatalCode) : (s.raiseFatal c).root = s.root := rfl
@[simp] theorem State.raiseFatal_encBits (c : FatalCode) : (s.raiseFatal c).encBits = s.encBits := rfl
@[simp] theorem State.raiseFatal_acc (c : FatalCode) : (s.raiseFatal c).acc = s.acc := rfl
@[simp] theorem State.raiseFatal_accn (c : FatalCode) : (s.raiseFatal c).accn = s.accn := rfl
@[simp] theorem State.raiseFatal_decTarget (c : FatalCode) : (s.raiseFatal c).decTarget = s.decTarget := rfl
@[simp] theorem State.raiseFatal_decConsumed (c : FatalCode) : (s.raiseFatal c).decConsumed = s.decConsumed := rfl
@[simp] theorem State.raiseFatal_walk (c : FatalCode) : (s.raiseFatal c).walk = s.walk := rfl
@[simp] theorem State.raiseFatal_outlen (c : FatalCode) : (s.raiseFatal c).outlen = 0#40 := rfl
@[simp] theorem State.raiseFatal_rdptr (c : FatalCode) : (s.raiseFatal c).rdptr = 0#40 := rfl
@[simp] theorem State.raiseFatal_outcap (c : FatalCode) : (s.raiseFatal c).outcap = s.outcap := rfl
@[simp] theorem State.raiseFatal_freq (c : FatalCode) : (s.raiseFatal c).freq = s.freq := rfl
@[simp] theorem State.raiseFatal_node (c : FatalCode) : (s.raiseFatal c).node = s.node := rfl
@[simp] theorem State.raiseFatal_clen (c : FatalCode) : (s.raiseFatal c).clen = s.clen := rfl
@[simp] theorem State.raiseFatal_cbits (c : FatalCode) : (s.raiseFatal c).cbits = s.cbits := rfl
@[simp] theorem State.raiseFatal_outbuf (c : FatalCode) : (s.raiseFatal c).outbuf = s.outbuf := rfl
@[simp] theorem State.raiseFatal_port (c : FatalCode) : (s.raiseFatal c).port = { s.port with rsp := some (rspWord c.bits .error 0#40) } := rfl

/-! ### setFreq -/

@[simp] theorem State.setFreq_phase (sym : Byte) (v : Count) : (s.setFreq sym v).phase = s.phase := rfl
@[simp] theorem State.setFreq_cv (sym : Byte) (v : Count) : (s.setFreq sym v).cv = s.cv := rfl
@[simp] theorem State.setFreq_shape (sym : Byte) (v : Count) : (s.setFreq sym v).shape = s.shape := rfl
@[simp] theorem State.setFreq_errcode (sym : Byte) (v : Count) : (s.setFreq sym v).errcode = s.errcode := rfl
@[simp] theorem State.setFreq_total (sym : Byte) (v : Count) : (s.setFreq sym v).total = s.total := rfl
@[simp] theorem State.setFreq_nleaves (sym : Byte) (v : Count) : (s.setFreq sym v).nleaves = s.nleaves := rfl
@[simp] theorem State.setFreq_nnodes (sym : Byte) (v : Count) : (s.setFreq sym v).nnodes = s.nnodes := rfl
@[simp] theorem State.setFreq_root (sym : Byte) (v : Count) : (s.setFreq sym v).root = s.root := rfl
@[simp] theorem State.setFreq_encBits (sym : Byte) (v : Count) : (s.setFreq sym v).encBits = s.encBits := rfl
@[simp] theorem State.setFreq_acc (sym : Byte) (v : Count) : (s.setFreq sym v).acc = s.acc := rfl
@[simp] theorem State.setFreq_accn (sym : Byte) (v : Count) : (s.setFreq sym v).accn = s.accn := rfl
@[simp] theorem State.setFreq_decTarget (sym : Byte) (v : Count) : (s.setFreq sym v).decTarget = s.decTarget := rfl
@[simp] theorem State.setFreq_decConsumed (sym : Byte) (v : Count) : (s.setFreq sym v).decConsumed = s.decConsumed := rfl
@[simp] theorem State.setFreq_walk (sym : Byte) (v : Count) : (s.setFreq sym v).walk = s.walk := rfl
@[simp] theorem State.setFreq_outlen (sym : Byte) (v : Count) : (s.setFreq sym v).outlen = s.outlen := rfl
@[simp] theorem State.setFreq_rdptr (sym : Byte) (v : Count) : (s.setFreq sym v).rdptr = s.rdptr := rfl
@[simp] theorem State.setFreq_outcap (sym : Byte) (v : Count) : (s.setFreq sym v).outcap = s.outcap := rfl
@[simp] theorem State.setFreq_freq (sym : Byte) (v : Count) : (s.setFreq sym v).freq = Memory.write 0#32 s.freq sym.toNat v := rfl
@[simp] theorem State.setFreq_node (sym : Byte) (v : Count) : (s.setFreq sym v).node = s.node := rfl
@[simp] theorem State.setFreq_clen (sym : Byte) (v : Count) : (s.setFreq sym v).clen = s.clen := rfl
@[simp] theorem State.setFreq_cbits (sym : Byte) (v : Count) : (s.setFreq sym v).cbits = s.cbits := rfl
@[simp] theorem State.setFreq_outbuf (sym : Byte) (v : Count) : (s.setFreq sym v).outbuf = s.outbuf := rfl
@[simp] theorem State.setFreq_port (sym : Byte) (v : Count) : (s.setFreq sym v).port = s.port := rfl

/-! ### endSession -/

@[simp] theorem State.endSession_phase : (s.endSession).phase = s.readyPhase := rfl
@[simp] theorem State.endSession_cv : (s.endSession).cv = s.cv := rfl
@[simp] theorem State.endSession_shape : (s.endSession).shape = s.shape := rfl
@[simp] theorem State.endSession_errcode : (s.endSession).errcode = 0x00#8 := rfl
@[simp] theorem State.endSession_total : (s.endSession).total = s.total := rfl
@[simp] theorem State.endSession_nleaves : (s.endSession).nleaves = s.nleaves := rfl
@[simp] theorem State.endSession_nnodes : (s.endSession).nnodes = s.nnodes := rfl
@[simp] theorem State.endSession_root : (s.endSession).root = s.root := rfl
@[simp] theorem State.endSession_encBits : (s.endSession).encBits = 0#40 := rfl
@[simp] theorem State.endSession_acc : (s.endSession).acc = 0#8 := rfl
@[simp] theorem State.endSession_accn : (s.endSession).accn = 0#3 := rfl
@[simp] theorem State.endSession_decTarget : (s.endSession).decTarget = 0#40 := rfl
@[simp] theorem State.endSession_decConsumed : (s.endSession).decConsumed = 0#40 := rfl
@[simp] theorem State.endSession_walk : (s.endSession).walk = s.root := rfl
@[simp] theorem State.endSession_outlen : (s.endSession).outlen = 0#40 := rfl
@[simp] theorem State.endSession_rdptr : (s.endSession).rdptr = 0#40 := rfl
@[simp] theorem State.endSession_outcap : (s.endSession).outcap = s.outcap := rfl
@[simp] theorem State.endSession_freq : (s.endSession).freq = s.freq := rfl
@[simp] theorem State.endSession_node : (s.endSession).node = s.node := rfl
@[simp] theorem State.endSession_clen : (s.endSession).clen = s.clen := rfl
@[simp] theorem State.endSession_cbits : (s.endSession).cbits = s.cbits := rfl
@[simp] theorem State.endSession_outbuf : (s.endSession).outbuf = s.outbuf := rfl
@[simp] theorem State.endSession_port : (s.endSession).port = s.port := rfl

/-! ### clearAll -/

@[simp] theorem State.clearAll_phase : (s.clearAll).phase = .idle := rfl
@[simp] theorem State.clearAll_cv : (s.clearAll).cv = false := rfl
@[simp] theorem State.clearAll_shape : (s.clearAll).shape = .none := rfl
@[simp] theorem State.clearAll_errcode : (s.clearAll).errcode = 0x00#8 := rfl
@[simp] theorem State.clearAll_total : (s.clearAll).total = 0#32 := rfl
@[simp] theorem State.clearAll_nleaves : (s.clearAll).nleaves = 0#9 := rfl
@[simp] theorem State.clearAll_nnodes : (s.clearAll).nnodes = 0#10 := rfl
@[simp] theorem State.clearAll_root : (s.clearAll).root = 0#9 := rfl
@[simp] theorem State.clearAll_encBits : (s.clearAll).encBits = 0#40 := rfl
@[simp] theorem State.clearAll_acc : (s.clearAll).acc = 0#8 := rfl
@[simp] theorem State.clearAll_accn : (s.clearAll).accn = 0#3 := rfl
@[simp] theorem State.clearAll_decTarget : (s.clearAll).decTarget = 0#40 := rfl
@[simp] theorem State.clearAll_decConsumed : (s.clearAll).decConsumed = 0#40 := rfl
@[simp] theorem State.clearAll_walk : (s.clearAll).walk = 0#9 := rfl
@[simp] theorem State.clearAll_outlen : (s.clearAll).outlen = 0#40 := rfl
@[simp] theorem State.clearAll_rdptr : (s.clearAll).rdptr = 0#40 := rfl
@[simp] theorem State.clearAll_outcap : (s.clearAll).outcap = s.outcap := rfl
@[simp] theorem State.clearAll_freq : (s.clearAll).freq = [] := rfl
@[simp] theorem State.clearAll_node : (s.clearAll).node = s.node := rfl
@[simp] theorem State.clearAll_clen : (s.clearAll).clen = s.clen := rfl
@[simp] theorem State.clearAll_cbits : (s.clearAll).cbits = s.cbits := rfl
@[simp] theorem State.clearAll_outbuf : (s.clearAll).outbuf = s.outbuf := rfl
@[simp] theorem State.clearAll_port : (s.clearAll).port = s.port := rfl

/-! ### withTree -/

@[simp] theorem State.withTree_phase : (s.withTree).phase = .built := rfl
@[simp] theorem State.withTree_cv : (s.withTree).cv = s.cv := rfl
@[simp] theorem State.withTree_shape : (s.withTree).shape = Shape.ofLeaves s.seedLeaves.length := rfl
@[simp] theorem State.withTree_errcode : (s.withTree).errcode = s.errcode := rfl
@[simp] theorem State.withTree_total : (s.withTree).total = s.total := rfl
@[simp] theorem State.withTree_nleaves : (s.withTree).nleaves = BitVec.ofNat 9 s.seedLeaves.length := rfl
@[simp] theorem State.withTree_nnodes : (s.withTree).nnodes = BitVec.ofNat 10 s.treeArena.length := rfl
@[simp] theorem State.withTree_root : (s.withTree).root = BitVec.ofNat 9 (s.treeArena.length - 1) := rfl
@[simp] theorem State.withTree_encBits : (s.withTree).encBits = s.encBits := rfl
@[simp] theorem State.withTree_acc : (s.withTree).acc = s.acc := rfl
@[simp] theorem State.withTree_accn : (s.withTree).accn = s.accn := rfl
@[simp] theorem State.withTree_decTarget : (s.withTree).decTarget = s.decTarget := rfl
@[simp] theorem State.withTree_decConsumed : (s.withTree).decConsumed = s.decConsumed := rfl
@[simp] theorem State.withTree_walk : (s.withTree).walk = BitVec.ofNat 9 (s.treeArena.length - 1) := rfl
@[simp] theorem State.withTree_outlen : (s.withTree).outlen = s.outlen := rfl
@[simp] theorem State.withTree_rdptr : (s.withTree).rdptr = s.rdptr := rfl
@[simp] theorem State.withTree_outcap : (s.withTree).outcap = s.outcap := rfl
@[simp] theorem State.withTree_freq : (s.withTree).freq = s.freq := rfl
@[simp] theorem State.withTree_node : (s.withTree).node = writeArena s.node 0 s.treeArena := rfl
@[simp] theorem State.withTree_clen : (s.withTree).clen = s.clen := rfl
@[simp] theorem State.withTree_cbits : (s.withTree).cbits = s.cbits := rfl
@[simp] theorem State.withTree_outbuf : (s.withTree).outbuf = s.outbuf := rfl
@[simp] theorem State.withTree_port : (s.withTree).port = s.port := rfl

/-! ### withCodes -/

@[simp] theorem State.withCodes_phase (codes : List CodeEntry) : (s.withCodes codes).phase = .coded := rfl
@[simp] theorem State.withCodes_cv (codes : List CodeEntry) : (s.withCodes codes).cv = true := rfl
@[simp] theorem State.withCodes_shape (codes : List CodeEntry) : (s.withCodes codes).shape = s.shape := rfl
@[simp] theorem State.withCodes_errcode (codes : List CodeEntry) : (s.withCodes codes).errcode = s.errcode := rfl
@[simp] theorem State.withCodes_total (codes : List CodeEntry) : (s.withCodes codes).total = s.total := rfl
@[simp] theorem State.withCodes_nleaves (codes : List CodeEntry) : (s.withCodes codes).nleaves = s.nleaves := rfl
@[simp] theorem State.withCodes_nnodes (codes : List CodeEntry) : (s.withCodes codes).nnodes = s.nnodes := rfl
@[simp] theorem State.withCodes_root (codes : List CodeEntry) : (s.withCodes codes).root = s.root := rfl
@[simp] theorem State.withCodes_encBits (codes : List CodeEntry) : (s.withCodes codes).encBits = s.encBits := rfl
@[simp] theorem State.withCodes_acc (codes : List CodeEntry) : (s.withCodes codes).acc = s.acc := rfl
@[simp] theorem State.withCodes_accn (codes : List CodeEntry) : (s.withCodes codes).accn = s.accn := rfl
@[simp] theorem State.withCodes_decTarget (codes : List CodeEntry) : (s.withCodes codes).decTarget = s.decTarget := rfl
@[simp] theorem State.withCodes_decConsumed (codes : List CodeEntry) : (s.withCodes codes).decConsumed = s.decConsumed := rfl
@[simp] theorem State.withCodes_walk (codes : List CodeEntry) : (s.withCodes codes).walk = s.walk := rfl
@[simp] theorem State.withCodes_outlen (codes : List CodeEntry) : (s.withCodes codes).outlen = s.outlen := rfl
@[simp] theorem State.withCodes_rdptr (codes : List CodeEntry) : (s.withCodes codes).rdptr = s.rdptr := rfl
@[simp] theorem State.withCodes_outcap (codes : List CodeEntry) : (s.withCodes codes).outcap = s.outcap := rfl
@[simp] theorem State.withCodes_freq (codes : List CodeEntry) : (s.withCodes codes).freq = s.freq := rfl
@[simp] theorem State.withCodes_node (codes : List CodeEntry) : (s.withCodes codes).node = s.node := rfl
@[simp] theorem State.withCodes_clen (codes : List CodeEntry) : (s.withCodes codes).clen = codeLens codes := rfl
@[simp] theorem State.withCodes_cbits (codes : List CodeEntry) : (s.withCodes codes).cbits = codeWords codes := rfl
@[simp] theorem State.withCodes_outbuf (codes : List CodeEntry) : (s.withCodes codes).outbuf = s.outbuf := rfl
@[simp] theorem State.withCodes_port (codes : List CodeEntry) : (s.withCodes codes).port = s.port := rfl

/-! ### withHost -/

@[simp] theorem State.withHost_phase (acts : List HostAct) : (s.withHost acts).phase = s.phase := rfl
@[simp] theorem State.withHost_cv (acts : List HostAct) : (s.withHost acts).cv = s.cv := rfl
@[simp] theorem State.withHost_shape (acts : List HostAct) : (s.withHost acts).shape = s.shape := rfl
@[simp] theorem State.withHost_errcode (acts : List HostAct) : (s.withHost acts).errcode = s.errcode := rfl
@[simp] theorem State.withHost_total (acts : List HostAct) : (s.withHost acts).total = s.total := rfl
@[simp] theorem State.withHost_nleaves (acts : List HostAct) : (s.withHost acts).nleaves = s.nleaves := rfl
@[simp] theorem State.withHost_nnodes (acts : List HostAct) : (s.withHost acts).nnodes = s.nnodes := rfl
@[simp] theorem State.withHost_root (acts : List HostAct) : (s.withHost acts).root = s.root := rfl
@[simp] theorem State.withHost_encBits (acts : List HostAct) : (s.withHost acts).encBits = s.encBits := rfl
@[simp] theorem State.withHost_acc (acts : List HostAct) : (s.withHost acts).acc = s.acc := rfl
@[simp] theorem State.withHost_accn (acts : List HostAct) : (s.withHost acts).accn = s.accn := rfl
@[simp] theorem State.withHost_decTarget (acts : List HostAct) : (s.withHost acts).decTarget = s.decTarget := rfl
@[simp] theorem State.withHost_decConsumed (acts : List HostAct) : (s.withHost acts).decConsumed = s.decConsumed := rfl
@[simp] theorem State.withHost_walk (acts : List HostAct) : (s.withHost acts).walk = s.walk := rfl
@[simp] theorem State.withHost_outlen (acts : List HostAct) : (s.withHost acts).outlen = s.outlen := rfl
@[simp] theorem State.withHost_rdptr (acts : List HostAct) : (s.withHost acts).rdptr = s.rdptr := rfl
@[simp] theorem State.withHost_outcap (acts : List HostAct) : (s.withHost acts).outcap = s.outcap := rfl
@[simp] theorem State.withHost_freq (acts : List HostAct) : (s.withHost acts).freq = s.freq := rfl
@[simp] theorem State.withHost_node (acts : List HostAct) : (s.withHost acts).node = s.node := rfl
@[simp] theorem State.withHost_clen (acts : List HostAct) : (s.withHost acts).clen = s.clen := rfl
@[simp] theorem State.withHost_cbits (acts : List HostAct) : (s.withHost acts).cbits = s.cbits := rfl
@[simp] theorem State.withHost_outbuf (acts : List HostAct) : (s.withHost acts).outbuf = s.outbuf := rfl
@[simp] theorem State.withHost_port (acts : List HostAct) : (s.withHost acts).port = { s.port with host := acts } := rfl

/-! ### hwReset -/

@[simp] theorem State.hwReset_phase : (s.hwReset).phase = .idle := rfl
@[simp] theorem State.hwReset_cv : (s.hwReset).cv = false := rfl
@[simp] theorem State.hwReset_shape : (s.hwReset).shape = .none := rfl
@[simp] theorem State.hwReset_errcode : (s.hwReset).errcode = 0x00#8 := rfl
@[simp] theorem State.hwReset_total : (s.hwReset).total = 0#32 := rfl
@[simp] theorem State.hwReset_nleaves : (s.hwReset).nleaves = 0#9 := rfl
@[simp] theorem State.hwReset_nnodes : (s.hwReset).nnodes = 0#10 := rfl
@[simp] theorem State.hwReset_root : (s.hwReset).root = 0#9 := rfl
@[simp] theorem State.hwReset_encBits : (s.hwReset).encBits = 0#40 := rfl
@[simp] theorem State.hwReset_acc : (s.hwReset).acc = 0#8 := rfl
@[simp] theorem State.hwReset_accn : (s.hwReset).accn = 0#3 := rfl
@[simp] theorem State.hwReset_decTarget : (s.hwReset).decTarget = 0#40 := rfl
@[simp] theorem State.hwReset_decConsumed : (s.hwReset).decConsumed = 0#40 := rfl
@[simp] theorem State.hwReset_walk : (s.hwReset).walk = 0#9 := rfl
@[simp] theorem State.hwReset_outlen : (s.hwReset).outlen = 0#40 := rfl
@[simp] theorem State.hwReset_rdptr : (s.hwReset).rdptr = 0#40 := rfl
@[simp] theorem State.hwReset_outcap : (s.hwReset).outcap = s.outcap := rfl
@[simp] theorem State.hwReset_freq : (s.hwReset).freq = [] := rfl
@[simp] theorem State.hwReset_node : (s.hwReset).node = [] := rfl
@[simp] theorem State.hwReset_clen : (s.hwReset).clen = [] := rfl
@[simp] theorem State.hwReset_cbits : (s.hwReset).cbits = [] := rfl
@[simp] theorem State.hwReset_outbuf : (s.hwReset).outbuf = [] := rfl
@[simp] theorem State.hwReset_port : (s.hwReset).port = { s.port with rsp := none } := rfl

/-! ### takeRsp -/

@[simp] theorem State.takeRsp_phase : s.takeRsp.phase = s.phase := by unfold State.takeRsp; split <;> rfl
@[simp] theorem State.takeRsp_cv : s.takeRsp.cv = s.cv := by unfold State.takeRsp; split <;> rfl
@[simp] theorem State.takeRsp_shape : s.takeRsp.shape = s.shape := by unfold State.takeRsp; split <;> rfl
@[simp] theorem State.takeRsp_errcode : s.takeRsp.errcode = s.errcode := by unfold State.takeRsp; split <;> rfl
@[simp] theorem State.takeRsp_total : s.takeRsp.total = s.total := by unfold State.takeRsp; split <;> rfl
@[simp] theorem State.takeRsp_nleaves : s.takeRsp.nleaves = s.nleaves := by unfold State.takeRsp; split <;> rfl
@[simp] theorem State.takeRsp_nnodes : s.takeRsp.nnodes = s.nnodes := by unfold State.takeRsp; split <;> rfl
@[simp] theorem State.takeRsp_root : s.takeRsp.root = s.root := by unfold State.takeRsp; split <;> rfl
@[simp] theorem State.takeRsp_encBits : s.takeRsp.encBits = s.encBits := by unfold State.takeRsp; split <;> rfl
@[simp] theorem State.takeRsp_acc : s.takeRsp.acc = s.acc := by unfold State.takeRsp; split <;> rfl
@[simp] theorem State.takeRsp_accn : s.takeRsp.accn = s.accn := by unfold State.takeRsp; split <;> rfl
@[simp] theorem State.takeRsp_decTarget : s.takeRsp.decTarget = s.decTarget := by unfold State.takeRsp; split <;> rfl
@[simp] theorem State.takeRsp_decConsumed : s.takeRsp.decConsumed = s.decConsumed := by unfold State.takeRsp; split <;> rfl
@[simp] theorem State.takeRsp_walk : s.takeRsp.walk = s.walk := by unfold State.takeRsp; split <;> rfl
@[simp] theorem State.takeRsp_outlen : s.takeRsp.outlen = s.outlen := by unfold State.takeRsp; split <;> rfl
@[simp] theorem State.takeRsp_rdptr : s.takeRsp.rdptr = s.rdptr := by unfold State.takeRsp; split <;> rfl
@[simp] theorem State.takeRsp_outcap : s.takeRsp.outcap = s.outcap := by unfold State.takeRsp; split <;> rfl
@[simp] theorem State.takeRsp_freq : s.takeRsp.freq = s.freq := by unfold State.takeRsp; split <;> rfl
@[simp] theorem State.takeRsp_node : s.takeRsp.node = s.node := by unfold State.takeRsp; split <;> rfl
@[simp] theorem State.takeRsp_clen : s.takeRsp.clen = s.clen := by unfold State.takeRsp; split <;> rfl
@[simp] theorem State.takeRsp_cbits : s.takeRsp.cbits = s.cbits := by unfold State.takeRsp; split <;> rfl
@[simp] theorem State.takeRsp_outbuf : s.takeRsp.outbuf = s.outbuf := by unfold State.takeRsp; split <;> rfl
@[simp] theorem State.takeRsp_rsp : s.takeRsp.port.rsp = none := by
  unfold State.takeRsp; split <;> simp_all
@[simp] theorem State.takeRsp_host : s.takeRsp.port.host = s.port.host := by
  unfold State.takeRsp; split <;> rfl

/-! ### The reads under the updates -/

@[simp] theorem State.answer_freqAt (w : Word) (sy : Byte) : (s.answer w).freqAt sy = s.freqAt sy := rfl
@[simp] theorem State.answer_clenAt (w : Word) (sy : Byte) : (s.answer w).clenAt sy = s.clenAt sy := rfl
@[simp] theorem State.answer_cbitsAt (w : Word) (sy : Byte) : (s.answer w).cbitsAt sy = s.cbitsAt sy := rfl
@[simp] theorem State.answer_nodeEntry (w : Word) (k : Nat) : (s.answer w).nodeEntry k = s.nodeEntry k := rfl
@[simp] theorem State.respond_freqAt (d : Data) (sy : Byte) : (s.respond d).freqAt sy = s.freqAt sy := rfl
@[simp] theorem State.respond_clenAt (d : Data) (sy : Byte) : (s.respond d).clenAt sy = s.clenAt sy := rfl
@[simp] theorem State.respond_cbitsAt (d : Data) (sy : Byte) : (s.respond d).cbitsAt sy = s.cbitsAt sy := rfl
@[simp] theorem State.respond_nodeEntry (d : Data) (k : Nat) : (s.respond d).nodeEntry k = s.nodeEntry k := rfl
@[simp] theorem State.reject_freqAt (c : RejectCode) (sy : Byte) : (s.reject c).freqAt sy = s.freqAt sy := rfl
@[simp] theorem State.reject_clenAt (c : RejectCode) (sy : Byte) : (s.reject c).clenAt sy = s.clenAt sy := rfl
@[simp] theorem State.reject_cbitsAt (c : RejectCode) (sy : Byte) : (s.reject c).cbitsAt sy = s.cbitsAt sy := rfl
@[simp] theorem State.reject_nodeEntry (c : RejectCode) (k : Nat) : (s.reject c).nodeEntry k = s.nodeEntry k := rfl
@[simp] theorem State.raiseFatal_freqAt (c : FatalCode) (sy : Byte) : (s.raiseFatal c).freqAt sy = s.freqAt sy := rfl
@[simp] theorem State.raiseFatal_clenAt (c : FatalCode) (sy : Byte) : (s.raiseFatal c).clenAt sy = s.clenAt sy := rfl
@[simp] theorem State.raiseFatal_cbitsAt (c : FatalCode) (sy : Byte) : (s.raiseFatal c).cbitsAt sy = s.cbitsAt sy := rfl
@[simp] theorem State.raiseFatal_nodeEntry (c : FatalCode) (k : Nat) : (s.raiseFatal c).nodeEntry k = s.nodeEntry k := rfl
@[simp] theorem State.setFreq_clenAt (sym : Byte) (v : Count) (sy : Byte) : (s.setFreq sym v).clenAt sy = s.clenAt sy := rfl
@[simp] theorem State.setFreq_cbitsAt (sym : Byte) (v : Count) (sy : Byte) : (s.setFreq sym v).cbitsAt sy = s.cbitsAt sy := rfl
@[simp] theorem State.setFreq_nodeEntry (sym : Byte) (v : Count) (k : Nat) : (s.setFreq sym v).nodeEntry k = s.nodeEntry k := rfl
@[simp] theorem State.endSession_freqAt (sy : Byte) : (s.endSession).freqAt sy = s.freqAt sy := rfl
@[simp] theorem State.endSession_clenAt (sy : Byte) : (s.endSession).clenAt sy = s.clenAt sy := rfl
@[simp] theorem State.endSession_cbitsAt (sy : Byte) : (s.endSession).cbitsAt sy = s.cbitsAt sy := rfl
@[simp] theorem State.endSession_nodeEntry (k : Nat) : (s.endSession).nodeEntry k = s.nodeEntry k := rfl
@[simp] theorem State.clearAll_clenAt (sy : Byte) : (s.clearAll).clenAt sy = s.clenAt sy := rfl
@[simp] theorem State.clearAll_cbitsAt (sy : Byte) : (s.clearAll).cbitsAt sy = s.cbitsAt sy := rfl
@[simp] theorem State.clearAll_nodeEntry (k : Nat) : (s.clearAll).nodeEntry k = s.nodeEntry k := rfl
@[simp] theorem State.withTree_freqAt (sy : Byte) : (s.withTree).freqAt sy = s.freqAt sy := rfl
@[simp] theorem State.withTree_clenAt (sy : Byte) : (s.withTree).clenAt sy = s.clenAt sy := rfl
@[simp] theorem State.withTree_cbitsAt (sy : Byte) : (s.withTree).cbitsAt sy = s.cbitsAt sy := rfl
@[simp] theorem State.withCodes_freqAt (codes : List CodeEntry) (sy : Byte) : (s.withCodes codes).freqAt sy = s.freqAt sy := rfl
@[simp] theorem State.withCodes_nodeEntry (codes : List CodeEntry) (k : Nat) : (s.withCodes codes).nodeEntry k = s.nodeEntry k := rfl
@[simp] theorem State.withHost_freqAt (acts : List HostAct) (sy : Byte) : (s.withHost acts).freqAt sy = s.freqAt sy := rfl
@[simp] theorem State.withHost_clenAt (acts : List HostAct) (sy : Byte) : (s.withHost acts).clenAt sy = s.clenAt sy := rfl
@[simp] theorem State.withHost_cbitsAt (acts : List HostAct) (sy : Byte) : (s.withHost acts).cbitsAt sy = s.cbitsAt sy := rfl
@[simp] theorem State.withHost_nodeEntry (acts : List HostAct) (k : Nat) : (s.withHost acts).nodeEntry k = s.nodeEntry k := rfl

end Sys2Proof.Machine
end

