-- ==== Sys2Proof/Laws/Ops.lean ====
section
/-! SUPPORT. For each shared operation, what it can do, said once: the outcome of a command, `emit`, and the loops of the
packer and the unpacker. -/

namespace Sys2Proof.Machine

variable {s t : State}

/-! ## Outcomes -/

@[simp] theorem State.finish_ok (d : Data) : s.finish (.ok t d) = .next (t.respond d) := rfl
@[simp] theorem State.finish_reject (c : RejectCode) : s.finish (.reject c) = .next (s.reject c) := rfl
@[simp] theorem State.finish_fatal (c : FatalCode) : s.finish (.halt (.fatal c)) = .next (s.raiseFatal c) := rfl
@[simp] theorem State.finish_fault (f : Fault) : s.finish (.halt (.fault f)) = .fault f := rfl

@[simp] theorem State.command_true (r : Result) : s.command true r = s.finish r := rfl
@[simp] theorem State.command_false (r : Result) : s.command false r = .next (s.reject .phase) := rfl

/-- When a command answers, it responds from a new state, rejects, or takes the fatal-error entry. -/
theorem State.finish_next_cases {r : Result} (h : s.finish r = .next t) :
    (∃ u d, r = .ok u d ∧ t = u.respond d) ∨ (∃ c, r = .reject c ∧ t = s.reject c) ∨
      (∃ c, r = .halt (.fatal c) ∧ t = s.raiseFatal c) := by
  cases r with
  | ok u d => exact .inl ⟨u, d, rfl, by simpa using h.symm⟩
  | reject c => exact .inr (.inl ⟨c, rfl, by simpa using h.symm⟩)
  | halt h' =>
    cases h' with
    | fatal c => exact .inr (.inr ⟨c, rfl, by simpa using h.symm⟩)
    | fault f => cases h

/-- The same with the phase check in front. -/
theorem State.command_next_cases {legal : Bool} {r : Result} (h : s.command legal r = .next t) :
    (legal = false ∧ t = s.reject .phase) ∨
      (legal = true ∧
        ((∃ u d, r = .ok u d ∧ t = u.respond d) ∨ (∃ c, r = .reject c ∧ t = s.reject c) ∨
          (∃ c, r = .halt (.fatal c) ∧ t = s.raiseFatal c))) := by
  cases legal with
  | false => exact .inl ⟨rfl, by simpa using h.symm⟩
  | true => exact .inr ⟨rfl, State.finish_next_cases h⟩

/-- No command is refused by the model. -/
theorem State.command_ne_refused {legal : Bool} {r : Result} {e : Refusal} : s.command legal r ≠ .refused e := by
  rcases legal with _ | _
  · simp
  · rcases r with _ | _ | (_ | _) <;> simp

/-- A command stops only with a fault of its own rule, in a legal phase. -/
theorem State.command_fault_cases {legal : Bool} {r : Result} {f : Fault} (h : s.command legal r = .fault f) :
    legal = true ∧ r = .halt (.fault f) := by
  rcases legal with _ | _
  · cases h
  · rcases r with _ | _ | (_ | _) <;> first | (cases h; done) | exact ⟨rfl, by cases h; rfl⟩

/-! ## emit -/

/-- A byte was appended: there was room. -/
theorem State.emit_ok {b : Byte} (h : s.emit b = .ok t) :
    s.outlen.toNat < s.outcap.toNat ∧
      t = { s with outbuf := Memory.write 0#8 s.outbuf s.outlen.toNat b, outlen := s.outlen + 1#40 } := by
  unfold State.emit at h
  split at h
  · cases h
  · split at h
    · exact ⟨‹_›, by simpa using h.symm⟩
    · cases h

/-- `emit` ends early only on a full buffer, or, beyond any reachable state, above it. -/
theorem State.emit_error {b : Byte} {e : Halt} (h : s.emit b = .error e) :
    (e = .fatal .outOvf ∧ s.outlen = s.outcap) ∨ (e = .fault .noSuchEntry ∧ s.outcap.toNat < s.outlen.toNat) := by
  unfold State.emit at h
  split at h
  · exact .inl ⟨by simpa using h.symm, ‹_›⟩
  · split at h
    · cases h
    · rename_i hne hlt
      have : s.outlen.toNat ≠ s.outcap.toNat := fun he => hne (BitVec.eq_of_toNat_eq he)
      exact .inr ⟨by simpa using h.symm, by omega⟩

theorem State.emit_room {b : Byte} (h : s.outlen.toNat < s.outcap.toNat) :
    s.emit b =
      .ok { s with outbuf := Memory.write 0#8 s.outbuf s.outlen.toNat b, outlen := s.outlen + 1#40 } := by
  unfold State.emit
  rw [if_neg (fun he => by rw [he] at h; omega), if_pos h]

theorem State.emit_full {b : Byte} (h : s.outlen = s.outcap) : s.emit b = .error (.fatal .outOvf) := by
  unfold State.emit
  rw [if_pos h]

/-! ## The packer's loop -/

/-- One bit packed: shifted in, or the eighth bit of an emitted byte. -/
theorem State.packBit_ok {bit : Bool} (h : s.packBit bit = .ok t) :
    (s.accn ≠ 7#3 ∧ t = { s with acc := s.accWith bit, accn := s.accn + 1#3 }) ∨
      (s.accn = 7#3 ∧ s.outlen.toNat < s.outcap.toNat ∧
        t = { s with
          outbuf := Memory.write 0#8 s.outbuf s.outlen.toNat (s.accWith bit)
          outlen := s.outlen + 1#40
          acc := 0#8
          accn := 0#3 }) := by
  unfold State.packBit at h
  split at h
  · split at h
    · rename_i ha _ u hu
      obtain ⟨hlt, rfl⟩ := State.emit_ok hu
      exact .inr ⟨ha, hlt, by simpa using h.symm⟩
    · cases h
  · exact .inl ⟨‹_›, by simpa using h.symm⟩

/-- What packing leaves alone: everything but ACC, ACCN, OUTBUF and OUTLEN. -/
theorem State.packBit_frame {bit : Bool} (h : s.packBit bit = .ok t) :
    t = { s with acc := t.acc, accn := t.accn, outbuf := t.outbuf, outlen := t.outlen } := by
  rcases State.packBit_ok h with ⟨-, rfl⟩ | ⟨-, -, rfl⟩ <;> rfl

/-- The same for a whole code. -/
theorem packCode_frame {code : CodeBits} {j : Nat} (h : packCode code j s = .ok t) :
    t = { s with acc := t.acc, accn := t.accn, outbuf := t.outbuf, outlen := t.outlen } := by
  induction j generalizing s with
  | zero => cases h; rfl
  | succ j ih =>
    rw [packCode] at h
    split at h
    · rename_i u hu
      have hf := State.packBit_frame hu
      have := ih h
      rw [hf] at this
      exact this
    · cases h

/-- The flush of ENCF: nothing pending, or one padded byte emitted. -/
theorem State.flush_ok (h : s.flush = .ok t) :
    (s.accn = 0#3 ∧ t = s) ∨
      (s.accn ≠ 0#3 ∧ s.outlen.toNat < s.outcap.toNat ∧
        t = { s with
          outbuf := Memory.write 0#8 s.outbuf s.outlen.toNat s.padByte
          outlen := s.outlen + 1#40
          acc := 0#8
          accn := 0#3 }) := by
  unfold State.flush at h
  split at h
  · exact .inl ⟨‹_›, by simpa using h.symm⟩
  · split at h
    · rename_i ha _ u hu
      obtain ⟨hlt, rfl⟩ := State.emit_ok hu
      exact .inr ⟨ha, hlt, by simpa using h.symm⟩
    · cases h

/-! ## The unpacker's loop -/

/-- One step of the walk: an internal child, or a leaf whose symbol is emitted. -/
theorem State.walkBit_ok {bit : Bool} (h : s.walkBit bit = .ok t) :
    ∃ here nxt, s.nodeAt s.walk = some here ∧ s.nodeAt (here.child bit) = some nxt ∧
      ((nxt.leaf = false ∧ t = { s with walk := here.child bit }) ∨
        (nxt.leaf = true ∧ s.outlen.toNat < s.outcap.toNat ∧
          t = { s with
            outbuf := Memory.write 0#8 s.outbuf s.outlen.toNat nxt.sym
            outlen := s.outlen + 1#40
            walk := s.root })) := by
  unfold State.walkBit at h
  split at h
  · cases h
  · rename_i here hhere
    split at h
    · cases h
    · rename_i nxt hnxt
      refine ⟨here, nxt, hhere, hnxt, ?_⟩
      split at h
      · split at h
        · rename_i hleaf _ u hu
          obtain ⟨hlt, rfl⟩ := State.emit_ok hu
          exact .inr ⟨hleaf, hlt, by simpa using h.symm⟩
        · cases h
      · rename_i hleaf
        exact .inl ⟨by simpa using hleaf, by simpa using h.symm⟩

/-- What unpacking leaves alone: everything but DEC_CONSUMED, WALK, OUTBUF and OUTLEN. -/
theorem State.unpackBit_frame {bit : Bool} (h : s.unpackBit bit = .ok t) :
    t = { s with decConsumed := t.decConsumed, walk := t.walk, outbuf := t.outbuf, outlen := t.outlen } := by
  unfold State.unpackBit at h
  split at h
  · simp only at h
    split at h
    · obtain ⟨-, rfl⟩ := State.emit_ok h
      rfl
    · obtain ⟨here, nxt, -, -, ⟨-, rfl⟩ | ⟨-, -, rfl⟩⟩ := State.walkBit_ok h <;> rfl
  · cases h; rfl

/-- The same for a whole byte. -/
theorem unpackByte_frame {b : Byte} {i : Nat} (h : unpackByte b i s = .ok t) :
    t = { s with decConsumed := t.decConsumed, walk := t.walk, outbuf := t.outbuf, outlen := t.outlen } := by
  induction i generalizing s with
  | zero => cases h; rfl
  | succ i ih =>
    rw [unpackByte] at h
    split at h
    · rename_i u hu
      have hf := State.unpackBit_frame hu
      have := ih h
      rw [hf] at this
      exact this
    · cases h

end Sys2Proof.Machine
end

