-- ==== Sys2Proof/Laws/Decode.lean ====
section
/-! SUPPORT. The fields of an assembled command word, and the operand fields of an encoded command. -/

namespace Sys2Proof

/-- The four fields of an assembled word are the ones it was assembled from (spec/30_encoding.md R82). -/
@[simp] theorem Fields.ofWord_cmdWord (op sym rsv : BitVec 8) (imm : BitVec 40) :
    Fields.ofWord (cmdWord op sym rsv imm) = ⟨op, sym, rsv, imm⟩ := by
  have h {w : Nat} (n : Nat) (x : BitVec w) (y : BitVec 64)
      (h : ∀ i < w, y.getLsbD (n + i) = x.getLsbD i) : y.extractLsb' n w = x := by
    apply BitVec.eq_of_getLsbD_eq
    intro i hi
    simp [hi, h i hi]
  unfold Fields.ofWord cmdWord
  congr 1 <;> (apply h; intro i hi; simp only [BitVec.getLsbD_append])
  · rw [if_neg (by omega), if_neg (by omega), if_neg (by omega)]; congr 1; omega
  · rw [if_neg (by omega), if_neg (by omega), if_pos (by omega)]; congr 1; omega
  · rw [if_neg (by omega), if_pos (by omega)]; congr 1; omega
  · rw [if_pos (by omega)]; congr 1; omega

/-- The opcode field of an assembled word. -/
@[simp] theorem wordOp_cmdWord (op sym rsv : BitVec 8) (imm : BitVec 40) : wordOp (cmdWord op sym rsv imm) = op :=
  congrArg Fields.op (Fields.ofWord_cmdWord op sym rsv imm)

/-- The SYM operand of an assembled word. -/
@[simp] theorem wordSym_cmdWord (op sym rsv : BitVec 8) (imm : BitVec 40) : wordSym (cmdWord op sym rsv imm) = sym :=
  congrArg Fields.sym (Fields.ofWord_cmdWord op sym rsv imm)

/-- The IMM field of an assembled word. -/
@[simp] theorem wordCount_cmdWord (op sym rsv : BitVec 8) (imm : BitVec 40) : wordCount (cmdWord op sym rsv imm) = imm :=
  congrArg Fields.imm (Fields.ofWord_cmdWord op sym rsv imm)

/-- Zero bits above an operand leave its value below 2 to its width. -/
theorem toNat_zero_append_lt {m n : Nat} (x : BitVec n) : (0#m ++ x).toNat < 2 ^ n := by
  rw [BitVec.toNat_append]
  simpa using x.isLt

end Sys2Proof
end

