-- ==== Sys2Proof/Laws/PerInstr.lean ====
section
/-! SUPPORT. Statements about every command as syntax, one lemma per constructor. EncodeMeetsFormat: the word of a command has
a legal opcode whose format is the command's, and every bit that format requires zero is zero (spec/30_encoding.md R83, R90). -/

namespace Sys2Proof.Laws.EncodeMeetsFormat

/-- The encoded word is well formed in the command's own format. -/
def Statement (i : Instr) : Prop :=
  Format.ofOp (Fields.ofWord (encode i)).op = some i.format ∧ (Fields.ofWord (encode i)).wellFormed i.format = true

theorem nop : Statement .nop := ⟨rfl, rfl⟩
theorem clr : Statement .clr := ⟨rfl, rfl⟩
theorem sess : Statement .sess := ⟨rfl, rfl⟩
theorem build : Statement .build := ⟨rfl, rfl⟩
theorem genc : Statement .genc := ⟨rfl, rfl⟩
theorem encf : Statement .encf := ⟨rfl, rfl⟩
theorem decf : Statement .decf := ⟨rfl, rfl⟩
theorem rdout : Statement .rdout := ⟨rfl, rfl⟩

theorem rdreg (reg : BitVec 5) : Statement (.rdreg reg) := by
  simp only [Statement, encode, Fields.ofWord_cmdWord]
  exact ⟨rfl, decide_eq_true (toNat_zero_append_lt reg)⟩

theorem facc (sym : Byte) : Statement (.facc sym) := by
  simp only [Statement, encode, Fields.ofWord_cmdWord]
  exact ⟨rfl, rfl⟩

theorem fset (sym : Byte) (value : Count) : Statement (.fset sym value) := by
  simp only [Statement, encode, Fields.ofWord_cmdWord]
  exact ⟨rfl, decide_eq_true (toNat_zero_append_lt value)⟩

theorem rdfreq (sym : Byte) : Statement (.rdfreq sym) := by
  simp only [Statement, encode, Fields.ofWord_cmdWord]
  exact ⟨rfl, rfl⟩

theorem rdnode (sel : Bool) (index : NodeIdx) : Statement (.rdnode sel index) := by
  simp only [Statement, encode, Fields.ofWord_cmdWord]
  refine ⟨rfl, decide_eq_true ?_⟩
  have h : index.toNat < 2 ^ 10 := Nat.lt_of_lt_of_le index.isLt (by decide)
  cases sel <;> simp only [BitVec.toNat_append]
  · simpa using h
  · simpa using Nat.or_lt_two_pow (x := 512) (by decide) h

theorem rdcode (sym : Byte) (chunk : BitVec 3) : Statement (.rdcode sym chunk) := by
  simp only [Statement, encode, Fields.ofWord_cmdWord]
  exact ⟨rfl, decide_eq_true (toNat_zero_append_lt chunk)⟩

theorem encb (sym : Byte) : Statement (.encb sym) := by
  simp only [Statement, encode, Fields.ofWord_cmdWord]
  exact ⟨rfl, rfl⟩

theorem decs (count : BitCount) : Statement (.decs count) := by
  simp only [Statement, encode, Fields.ofWord_cmdWord]
  exact ⟨rfl, rfl⟩

theorem decb (byte : Byte) : Statement (.decb byte) := by
  simp only [Statement, encode, Fields.ofWord_cmdWord]
  exact ⟨rfl, rfl⟩

end Sys2Proof.Laws.EncodeMeetsFormat
end

