-- ==== Sys2Proof/Laws/Exec.lean ====
section
/-! SUPPORT. What a command can do, said once for all of them (`exec_next_cases`), and what a step can do
(`step_next_cases`): an invariant is proved from these, without unfolding `exec` or `step`. -/

namespace Sys2Proof.Machine

/-- The state change of a command that ends in `respond`, before its response, with the checks it has passed. -/
inductive Effect : Instr → State → State → Prop where
  | nop (s) : Effect .nop s s
  | clr (s) : Effect .clr s s.clearAll
  | sess (s) : Effect .sess s s.endSession
  | rdreg (s r) : Effect (.rdreg r) s s
  | facc (s sym) (hp : s.phase = .idle) (ht : s.total.toNat ≠ Config.maxTotal) :
    Effect (.facc sym) s { s.setFreq sym (s.freqAt sym + 1#32) with total := s.total + 1#32 }
  | fset (s sym v) (hp : s.phase = .idle) (ht : s.fsetTotal sym v ≤ Config.maxTotal) :
    Effect (.fset sym v) s { s.setFreq sym v with total := BitVec.ofNat 32 (s.fsetTotal sym v) }
  | rdfreq (s sym) : Effect (.rdfreq sym) s s
  | build (s) (hp : s.phase = .idle) : Effect .build s s.withTree
  | rdnode (s sel i) (hi : i.toNat < s.nnodes.toNat) : Effect (.rdnode sel i) s s
  | genc (s codes) (hp : s.phase = .built) (hc : s.treeCodes = .ok codes) : Effect .genc s (s.withCodes codes)
  | rdcode (s sym w) (hc : s.cv = true) : Effect (.rdcode sym w) s s
  | encb (s u sym) (hp : s.phase = .coded ∨ s.phase = .encoding) (hl : (s.clenAt sym).toNat ≠ 0)
      (hb : s.encBits.toNat + (s.clenAt sym).toNat ≤ Config.maxBits)
      (hu : packCode (s.cbitsAt sym) (s.clenAt sym).toNat s = .ok u) :
    Effect (.encb sym) s
      { u with encBits := BitVec.ofNat 40 (s.encBits.toNat + (s.clenAt sym).toNat), phase := .encoding }
  | encf (s u) (hp : s.phase = .coded ∨ s.phase = .encoding) (hu : s.flush = .ok u) :
    Effect .encf s { u with phase := .done }
  | decs (s d) (hp : s.phase = .built ∨ s.phase = .coded) :
    Effect (.decs d) s { s with decTarget := d, decConsumed := 0#40, walk := s.root, phase := .decoding }
  | decbAbsent (s b) (hp : s.phase = .decoding) (ha : s.shape = .absent) : Effect (.decb b) s s
  | decb (s u b) (hp : s.phase = .decoding) (ha : s.shape ≠ .absent) (hu : unpackByte b 8 s = .ok u) :
    Effect (.decb b) s u
  | decfAbsent (s) (hp : s.phase = .decoding) (ha : s.shape = .absent) : Effect .decf s { s with phase := .done }
  | decf (s) (hp : s.phase = .decoding) (ha : s.shape ≠ .absent) (hd : s.decTarget.toNat ≤ s.decConsumed.toNat)
      (hw : ¬(s.shape = .general ∧ s.walk ≠ s.root)) : Effect .decf s { s with phase := .done }
  | rdout (s) (hp : s.phase = .done) (hr : s.rdptr ≠ s.outlen) : Effect .rdout s { s with rdptr := s.rdptr + 1#40 }

variable {i : Instr} {s t : State}

/-- A command that answers has its effect, or is rejected with no effect, or takes the fatal-error entry, which no command
legal in ERROR takes. -/
theorem exec_next_cases (h : exec i s = .next t) :
    (∃ u d, Effect i s u ∧ t = u.respond d) ∨ (∃ c, t = s.reject c) ∨
      (∃ c, s.phase ≠ .error ∧ t = s.raiseFatal c) := by
  cases i <;> simp only [exec] at h
  case nop => exact .inl ⟨s, _, .nop s, by simpa [execNop] using h.symm⟩
  case clr => exact .inl ⟨_, _, .clr s, by simpa [execClr] using h.symm⟩
  case sess => exact .inl ⟨_, _, .sess s, by simpa [execSess] using h.symm⟩
  case rdfreq => exact .inl ⟨s, _, .rdfreq s _, by simpa [execRdfreq] using h.symm⟩
  case rdreg reg =>
    obtain ⟨hf, -⟩ | ⟨-, ⟨u, d, hr, rfl⟩ | ⟨c, hr, rfl⟩ | ⟨c, hr, rfl⟩⟩ := State.command_next_cases h
    · cases hf
    · split at hr <;> cases hr
      exact .inl ⟨s, _, .rdreg s _, rfl⟩
    · exact .inr (.inl ⟨_, rfl⟩)
    · split at hr <;> cases hr
  case facc sym =>
    obtain ⟨-, rfl⟩ | ⟨hl, ⟨u, d, hr, rfl⟩ | ⟨c, hr, rfl⟩ | ⟨c, hr, rfl⟩⟩ := State.command_next_cases h
    · exact .inr (.inl ⟨_, rfl⟩)
    · split at hr <;> cases hr
      exact .inl ⟨_, _, .facc s sym (by simpa using hl) ‹_›, rfl⟩
    · exact .inr (.inl ⟨_, rfl⟩)
    · exact .inr (.inr ⟨_, by simp_all, rfl⟩)
  case fset sym v =>
    obtain ⟨-, rfl⟩ | ⟨hl, ⟨u, d, hr, rfl⟩ | ⟨c, hr, rfl⟩ | ⟨c, hr, rfl⟩⟩ := State.command_next_cases h
    · exact .inr (.inl ⟨_, rfl⟩)
    · split at hr <;> cases hr
      exact .inl ⟨_, _, .fset s sym v (by simpa using hl) (by omega), rfl⟩
    · exact .inr (.inl ⟨_, rfl⟩)
    · exact .inr (.inr ⟨_, by simp_all, rfl⟩)
  case build =>
    obtain ⟨-, rfl⟩ | ⟨hl, ⟨u, d, hr, rfl⟩ | ⟨c, hr, rfl⟩ | ⟨c, hr, rfl⟩⟩ := State.command_next_cases h
    · exact .inr (.inl ⟨_, rfl⟩)
    · cases hr
      exact .inl ⟨_, _, .build s (by simpa using hl), rfl⟩
    · exact .inr (.inl ⟨_, rfl⟩)
    · cases hr
  case rdnode sel k =>
    obtain ⟨hf, -⟩ | ⟨-, ⟨u, d, hr, rfl⟩ | ⟨c, hr, rfl⟩ | ⟨c, hr, rfl⟩⟩ := State.command_next_cases h
    · cases hf
    · split at hr
      · cases hr
      · split at hr <;> cases hr
        exact .inl ⟨s, _, .rdnode s sel k (by omega), rfl⟩
    · exact .inr (.inl ⟨_, rfl⟩)
    · split at hr
      · cases hr
      · split at hr <;> cases hr
  case genc =>
    obtain ⟨-, rfl⟩ | ⟨hl, ⟨u, d, hr, rfl⟩ | ⟨c, hr, rfl⟩ | ⟨c, hr, rfl⟩⟩ := State.command_next_cases h
    · exact .inr (.inl ⟨_, rfl⟩)
    · split at hr <;> cases hr
      exact .inl ⟨_, _, .genc s _ (by simpa using hl) ‹_›, rfl⟩
    · exact .inr (.inl ⟨_, rfl⟩)
    · split at hr <;> cases hr
  case rdcode sym w =>
    obtain ⟨-, rfl⟩ | ⟨hl, ⟨u, d, hr, rfl⟩ | ⟨c, hr, rfl⟩ | ⟨c, hr, rfl⟩⟩ := State.command_next_cases h
    · exact .inr (.inl ⟨_, rfl⟩)
    · cases hr
      exact .inl ⟨s, _, .rdcode s sym w hl, rfl⟩
    · exact .inr (.inl ⟨_, rfl⟩)
    · cases hr
  case encb sym =>
    obtain ⟨-, rfl⟩ | ⟨hl, ⟨u, d, hr, rfl⟩ | ⟨c, hr, rfl⟩ | ⟨c, hr, rfl⟩⟩ := State.command_next_cases h
    · exact .inr (.inl ⟨_, rfl⟩)
    · simp only at hr
      split at hr
      · cases hr
      · split at hr
        · cases hr
        · split at hr <;> cases hr
          exact .inl ⟨_, _, .encb s _ sym (by simpa using hl) ‹_› (by omega) ‹_›, rfl⟩
    · exact .inr (.inl ⟨_, rfl⟩)
    · refine .inr (.inr ⟨_, ?_, rfl⟩)
      intro he
      simp [he] at hl
  case encf =>
    obtain ⟨-, rfl⟩ | ⟨hl, ⟨u, d, hr, rfl⟩ | ⟨c, hr, rfl⟩ | ⟨c, hr, rfl⟩⟩ := State.command_next_cases h
    · exact .inr (.inl ⟨_, rfl⟩)
    · split at hr <;> cases hr
      exact .inl ⟨_, _, .encf s _ (by simpa using hl) ‹_›, rfl⟩
    · exact .inr (.inl ⟨_, rfl⟩)
    · refine .inr (.inr ⟨_, ?_, rfl⟩)
      intro he
      simp [he] at hl
  case decs d =>
    obtain ⟨-, rfl⟩ | ⟨hl, ⟨u, d, hr, rfl⟩ | ⟨c, hr, rfl⟩ | ⟨c, hr, rfl⟩⟩ := State.command_next_cases h
    · exact .inr (.inl ⟨_, rfl⟩)
    · cases hr
      exact .inl ⟨_, _, .decs s _ (by simpa using hl), rfl⟩
    · exact .inr (.inl ⟨_, rfl⟩)
    · cases hr
  case decb b =>
    obtain ⟨-, rfl⟩ | ⟨hl, ⟨u, d, hr, rfl⟩ | ⟨c, hr, rfl⟩ | ⟨c, hr, rfl⟩⟩ := State.command_next_cases h
    · exact .inr (.inl ⟨_, rfl⟩)
    · split at hr
      · cases hr
        exact .inl ⟨s, _, .decbAbsent s b (by simpa using hl) ‹_›, rfl⟩
      · split at hr <;> cases hr
        exact .inl ⟨_, _, .decb s _ b (by simpa using hl) ‹_› ‹_›, rfl⟩
    · exact .inr (.inl ⟨_, rfl⟩)
    · exact .inr (.inr ⟨_, by simp_all, rfl⟩)
  case decf =>
    obtain ⟨-, rfl⟩ | ⟨hl, ⟨u, d, hr, rfl⟩ | ⟨c, hr, rfl⟩ | ⟨c, hr, rfl⟩⟩ := State.command_next_cases h
    · exact .inr (.inl ⟨_, rfl⟩)
    · split at hr
      · cases hr
        exact .inl ⟨_, _, .decfAbsent s (by simpa using hl) ‹_›, rfl⟩
      · split at hr
        · cases hr
        · split at hr <;> cases hr
          exact .inl ⟨_, _, .decf s (by simpa using hl) ‹_› (by omega) ‹_›, rfl⟩
    · exact .inr (.inl ⟨_, rfl⟩)
    · exact .inr (.inr ⟨_, by simp_all, rfl⟩)
  case rdout =>
    obtain ⟨-, rfl⟩ | ⟨hl, ⟨u, d, hr, rfl⟩ | ⟨c, hr, rfl⟩ | ⟨c, hr, rfl⟩⟩ := State.command_next_cases h
    · exact .inr (.inl ⟨_, rfl⟩)
    · split at hr
      · cases hr
      · split at hr <;> cases hr
        exact .inl ⟨_, _, .rdout s (by simpa using hl) ‹_›, rfl⟩
    · exact .inr (.inl ⟨_, rfl⟩)
    · split at hr
      · cases hr
      · split at hr <;> cases hr

/-- No command is refused by the model. -/
theorem exec_ne_refused {e : Refusal} : exec i s ≠ .refused e := by
  cases i <;>
    simp only [exec, execNop, execClr, execSess, execRdreg, execFacc, execFset, execRdfreq, execBuild, execRdnode, execGenc,
      execRdcode, execEncb, execEncf, execDecs, execDecb, execDecf, execRdout] <;>
    exact State.command_ne_refused

/-- What a step can do: hold, reset, deliver a response, hold off an offer, reject an undecodable word, or run a command. -/
theorem step_next_cases (h : step s = .next t) :
    (s.port.host = [] ∧ t = s) ∨
      ∃ rest,
        (s.port.host = .rst :: rest ∧ t = (s.withHost rest).hwReset) ∨
        (s.port.host = .take :: rest ∧ t = (s.withHost rest).takeRsp) ∨
        ∃ w, s.port.host = .offer w :: rest ∧
          ((s.cmdReady = false ∧ t = s.withHost rest) ∨
            (s.cmdReady = true ∧
              ((decode w = .error .opcode ∧ t = (s.withHost rest).reject .opcode) ∨
                (decode w = .error .field ∧ t = (s.withHost rest).reject .field) ∨
                ∃ i, decode w = .ok i ∧ exec i (s.withHost rest) = .next t))) := by
  unfold step hostStep at h
  split at h
  · exact .inl ⟨‹_›, by simpa using h.symm⟩
  · exact .inr ⟨_, .inl ⟨‹_›, by simpa using h.symm⟩⟩
  · exact .inr ⟨_, .inr (.inl ⟨‹_›, by simpa using h.symm⟩)⟩
  · rename_i w rest hh
    refine .inr ⟨rest, .inr (.inr ⟨w, hh, ?_⟩)⟩
    split at h
    · rename_i hr
      refine .inr ⟨hr, ?_⟩
      unfold handleWord at h
      split at h
      · exact .inl ⟨‹_›, by simpa using h.symm⟩
      · exact .inr (.inl ⟨‹_›, by simpa using h.symm⟩)
      · exact .inr (.inr ⟨_, ‹_›, h⟩)
    · rename_i hr
      exact .inl ⟨by simpa using hr, by simpa using h.symm⟩

end Sys2Proof.Machine
end

