-- ==== Sys2Proof/Laws/Operation.lean ====
section
/-! SUPPORT. No command looks at the ports (`exec_onPort`), and what sending commands and reading their responses can do
(spec/45_control.md R225, R226): `ask`, `askAll`, and the reads of an operation's results. -/

namespace Sys2Proof.Machine

variable {s t u : State} {p : Port}

/-! ## Commands do not look at the ports -/

/-- `s` with the ports `p`. -/
def State.onPort (s : State) (p : Port) : State := { s with port := p }

/-- A loop's end with the ports `p`. -/
def loopOnPort (p : Port) : Except Halt State → Except Halt State
  | .ok t => .ok (t.onPort p)
  | .error h => .error h

/-- A rule's end with the ports `p`. -/
def Result.onPort (p : Port) : Result → Result
  | .ok t d => .ok (t.onPort p) d
  | .reject c => .reject c
  | .halt h => .halt h

/-- A command's outcome with the ports `p` but for its own response. -/
def outcomeOnPort (p : Port) : Host.Outcome State Fault Refusal → Host.Outcome State Fault Refusal
  | .next t => .next (t.onPort { p with rsp := t.port.rsp })
  | .fault f => .fault f
  | .refused r => .refused r

@[simp] theorem State.nodeAt_onPort (i : NodeIdx) : (s.onPort p).nodeAt i = s.nodeAt i := rfl
@[simp] theorem State.treeArena_onPort : (s.onPort p).treeArena = s.treeArena := rfl
@[simp] theorem State.withTree_onPort : (s.onPort p).withTree = s.withTree.onPort p := rfl
@[simp] theorem State.readReg_onPort (r : BitVec 5) : (s.onPort p).readReg r = s.readReg r := rfl
@[simp] theorem State.onPort_port : (s.onPort p).port = p := rfl
@[simp] theorem State.onPort_onPort (q : Port) : (s.onPort p).onPort q = s.onPort q := rfl
@[simp] theorem State.onPort_self : s.onPort s.port = s := rfl

theorem State.command_onPort (legal : Bool) (r : Result) :
    (s.onPort p).command legal (r.onPort p) = outcomeOnPort p (s.command legal r) := by
  rcases legal with _ | _
  · rfl
  · rcases r with _ | _ | (_ | _) <;> rfl

theorem State.emit_onPort (b : Byte) : (s.onPort p).emit b = loopOnPort p (s.emit b) := by
  unfold State.emit
  rw [apply_ite (loopOnPort p), apply_ite (loopOnPort p)]
  rfl

theorem State.packBit_onPort (bit : Bool) : (s.onPort p).packBit bit = loopOnPort p (s.packBit bit) := by
  have ha : (s.onPort p).accWith bit = s.accWith bit := rfl
  unfold State.packBit
  rw [ha, State.emit_onPort, show (s.onPort p).accn = s.accn from rfl]
  split
  · cases s.emit (s.accWith bit) <;> rfl
  · rfl

theorem packCode_onPort (code : CodeBits) (j : Nat) :
    packCode code j (s.onPort p) = loopOnPort p (packCode code j s) := by
  induction j generalizing s with
  | zero => rfl
  | succ j ih =>
    rw [packCode, packCode, State.packBit_onPort]
    cases s.packBit (code.getLsbD j) with
    | ok t => exact ih
    | error h => rfl

theorem State.flush_onPort : (s.onPort p).flush = loopOnPort p s.flush := by
  unfold State.flush
  rw [State.emit_onPort, show (s.onPort p).accn = s.accn from rfl, show (s.onPort p).padByte = s.padByte from rfl]
  split
  · rfl
  · cases s.emit s.padByte <;> rfl

theorem State.walkBit_onPort (bit : Bool) : (s.onPort p).walkBit bit = loopOnPort p (s.walkBit bit) := by
  unfold State.walkBit
  rw [show (s.onPort p).walk = s.walk from rfl, State.nodeAt_onPort]
  split
  · rfl
  · rw [State.nodeAt_onPort]
    split
    · rfl
    · rename_i nxt _
      rw [State.emit_onPort]
      split
      · cases s.emit nxt.sym <;> rfl
      · rfl

theorem State.unpackBit_onPort (bit : Bool) : (s.onPort p).unpackBit bit = loopOnPort p (s.unpackBit bit) := by
  unfold State.unpackBit
  rw [show (s.onPort p).decConsumed = s.decConsumed from rfl, show (s.onPort p).decTarget = s.decTarget from rfl,
    show (s.onPort p).shape = s.shape from rfl]
  split
  · split
    · exact State.emit_onPort (s := { s with decConsumed := s.decConsumed + 1#40 }) _
    · exact State.walkBit_onPort (s := { s with decConsumed := s.decConsumed + 1#40 }) _
  · rfl

theorem unpackByte_onPort (b : Byte) (i : Nat) : unpackByte b i (s.onPort p) = loopOnPort p (unpackByte b i s) := by
  induction i generalizing s with
  | zero => rfl
  | succ i ih =>
    rw [unpackByte, unpackByte, State.unpackBit_onPort]
    cases s.unpackBit (b.getLsbD i) with
    | ok t => exact ih
    | error h => rfl

theorem State.visit_onPort (fuel : Nat) (i : NodeIdx) (len val : Nat) :
    (s.onPort p).visit fuel i len val = s.visit fuel i len val := by
  induction fuel generalizing i len val with
  | zero => rfl
  | succ fuel ih => simp only [State.visit, State.nodeAt_onPort, ih]

theorem State.treeCodes_onPort : (s.onPort p).treeCodes = s.treeCodes := by
  unfold State.treeCodes
  rw [State.visit_onPort]
  rfl

/-- A command does the same whatever the ports hold, but that its response is put on them. -/
theorem exec_onPort (i : Instr) : exec i (s.onPort p) = outcomeOnPort p (exec i s) := by
  cases i <;> simp only [exec]
  case nop => rfl
  case clr => rfl
  case sess => rfl
  case rdreg r =>
    unfold execRdreg
    rw [← State.command_onPort, State.readReg_onPort]
    cases s.readReg r <;> rfl
  case facc sym =>
    unfold execFacc
    rw [← State.command_onPort]
    rw [apply_ite (Result.onPort p)]
    rfl
  case fset sym v =>
    unfold execFset
    rw [← State.command_onPort]
    rw [apply_ite (Result.onPort p)]
    rfl
  case rdfreq => rfl
  case build => exact State.command_onPort (s.phase == .idle) (.ok s.withTree (s.withTree.nleaves.setWidth 40))
  case rdnode sel k =>
    unfold execRdnode
    rw [← State.command_onPort, State.nodeAt_onPort, show (s.onPort p).nnodes = s.nnodes from rfl]
    congr 1
    split
    · rfl
    · cases s.nodeAt k <;> rfl
  case genc =>
    unfold execGenc
    rw [← State.command_onPort, State.treeCodes_onPort]
    congr 1
    cases s.treeCodes <;> rfl
  case rdcode sym w => exact State.command_onPort s.cv (.ok s (s.codeData sym w))
  case encb sym =>
    unfold execEncb
    rw [← State.command_onPort]
    congr 1
    rw [show (s.onPort p).clenAt sym = s.clenAt sym from rfl, show (s.onPort p).cbitsAt sym = s.cbitsAt sym from rfl,
      show (s.onPort p).encBits = s.encBits from rfl]
    dsimp only
    rw [packCode_onPort]
    split
    · rfl
    · split
      · rfl
      · cases packCode (s.cbitsAt sym) (s.clenAt sym).toNat s <;> rfl
  case encf =>
    unfold execEncf
    rw [← State.command_onPort, State.flush_onPort]
    congr 1
    cases s.flush <;> rfl
  case decs d =>
    exact State.command_onPort (s.phase == .built || s.phase == .coded)
      (.ok { s with decTarget := d, decConsumed := 0#40, walk := s.root, phase := .decoding } 0#40)
  case decb b =>
    unfold execDecb
    rw [← State.command_onPort, unpackByte_onPort, show (s.onPort p).shape = s.shape from rfl]
    congr 1
    split
    · rfl
    · cases unpackByte b 8 s <;> rfl
  case decf =>
    unfold execDecf
    rw [← State.command_onPort]
    rw [apply_ite (Result.onPort p), apply_ite (Result.onPort p), apply_ite (Result.onPort p)]
    rfl
  case rdout =>
    unfold execRdout
    rw [← State.command_onPort]
    congr 1
    rw [show (s.onPort p).rdptr = s.rdptr from rfl, show (s.onPort p).outlen = s.outlen from rfl,
      show (s.onPort p).outAt s.rdptr = s.outAt s.rdptr from rfl]
    split
    · rfl
    · cases s.outAt s.rdptr <;> rfl

/-! ## The fields of a response word -/

@[simp] theorem rspStatus_rspWord (st : BitVec 8) (ph : Phase) (d : Data) : rspStatus (rspWord st ph d) = st := by
  unfold rspStatus rspWord
  apply BitVec.eq_of_getLsbD_eq
  intro i hi
  simp only [BitVec.getLsbD_extractLsb', BitVec.getLsbD_append]
  have h1 : ¬ 56 + i < 40 := by omega
  have h2 : ¬ 56 + i - 40 < 12 := by omega
  have h3 : ¬ 56 + i - 40 - 12 < 4 := by omega
  have h4 : 56 + i - 40 - 12 - 4 = i := by omega
  simp only [hi, h1, h2, h3, h4, decide_true, Bool.true_and, if_false]

@[simp] theorem rspData_rspWord (st : BitVec 8) (ph : Phase) (d : Data) : rspData (rspWord st ph d) = d := by
  unfold rspData rspWord
  apply BitVec.eq_of_getLsbD_eq
  intro i hi
  simp only [BitVec.getLsbD_extractLsb', BitVec.getLsbD_append, Nat.zero_add, hi, decide_true, Bool.true_and, if_true]

/-! ## Sending commands -/

/-- A part that is followed by another succeeds only where both do. -/
theorem OpResult.andThen_ok {α β : Type} {r : OpResult α} {f : α → State → OpResult β} {b : β} :
    r.andThen f = .ok b t ↔ ∃ a u, r = .ok a u ∧ f a u = .ok b t := by
  cases r <;> simp [OpResult.andThen]

/-- The state once the response that is pending in `s` has been accepted, as ports. -/
theorem State.takeRsp_eq : ∃ q, s.takeRsp = s.onPort q := by
  unfold State.takeRsp
  split
  · exact ⟨s.port, rfl⟩
  · exact ⟨_, rfl⟩

/-- A command that answers OK. -/
theorem ask_of_next {i : Instr} {ph : Phase} {d : Data} (h : exec i s = .next t)
    (hr : t.port.rsp = some (rspWord statusOk ph d)) : ask i s = .ok d t.takeRsp := by
  simp [ask, h, hr]

/-- A command that answers anything else: the operation it is part of fails. -/
theorem ask_of_error {i : Instr} {ph : Phase} {st : BitVec 8} {d : Data} (h : exec i s = .next t)
    (hr : t.port.rsp = some (rspWord st ph d)) (hst : st ≠ statusOk) :
    ask i s = .failed (OpError.ofStatus st) st t.takeRsp := by
  simp [ask, h, hr, hst]

/-- What an OK answer says of the command. -/
theorem ask_ok {i : Instr} {d : Data} (h : ask i s = .ok d t) :
    ∃ u w, exec i s = .next u ∧ u.port.rsp = some w ∧ rspStatus w = statusOk ∧ rspData w = d ∧ t = u.takeRsp := by
  unfold ask at h
  split at h
  · cases h
  · cases h
  · split at h
    · cases h
    · split at h
      · cases h
        exact ⟨_, _, ‹_›, ‹_›, ‹_›, rfl, rfl⟩
      · cases h

/-- No command goes unanswered (R240). -/
theorem ask_ne_unanswered {i : Instr} : ask i s ≠ .unanswered := by
  unfold ask
  split
  · simp
  · simp
  · rename_i t ht
    obtain ⟨u, d, -, rfl⟩ | ⟨c, rfl⟩ | ⟨c, -, rfl⟩ := exec_next_cases ht
    all_goals
      simp only [State.respond, State.reject, State.raiseFatal, State.answer]
      split <;> simp

@[simp] theorem askAll_nil : askAll [] s = .ok [] s := rfl

theorem askAll_cons_ok {i : Instr} {is : List Instr} {ds : List Data} :
    askAll (i :: is) s = .ok ds u ↔
      ∃ d t ds', ask i s = .ok d t ∧ askAll is t = .ok ds' u ∧ ds = d :: ds' := by
  simp only [askAll, OpResult.andThen_ok, OpResult.ok.injEq]
  constructor
  · rintro ⟨d, t, h, ds', u', h', rfl, rfl⟩
    exact ⟨d, t, ds', h, h', rfl⟩
  · rintro ⟨d, t, ds', h, h', rfl⟩
    exact ⟨d, t, h, ds', u, h', rfl, rfl⟩

/-- Two sequences, one after the other. -/
theorem askAll_append_ok {is js : List Instr} {ds : List Data} :
    askAll (is ++ js) s = .ok ds u ↔
      ∃ ds₁ t ds₂, askAll is s = .ok ds₁ t ∧ askAll js t = .ok ds₂ u ∧ ds = ds₁ ++ ds₂ := by
  induction is generalizing s ds with
  | nil => simp [askAll_nil]
  | cons i is ih =>
    simp only [List.cons_append, askAll_cons_ok, ih]
    constructor
    · rintro ⟨d, t, ds', h, ⟨ds₁, t', ds₂, h₁, h₂, rfl⟩, rfl⟩
      exact ⟨_, t', ds₂, ⟨d, t, ds₁, h, h₁, rfl⟩, h₂, rfl⟩
    · rintro ⟨ds₁, t', ds₂, ⟨d, t, ds', h, h₁, rfl⟩, h₂, rfl⟩
      exact ⟨d, t, ds' ++ ds₂, h, ⟨ds', t', ds₂, h₁, h₂, rfl⟩, rfl⟩

/-- A sequence that runs, runs alike whatever the ports hold. -/
theorem runAll_onPort {is : List Instr} (h : runAll is s = .next t) (p : Port) :
    ∃ q, runAll is (s.onPort p) = .next (t.onPort q) := by
  induction is generalizing s p with
  | nil => cases h; exact ⟨p, rfl⟩
  | cons i is ih =>
    simp only [runAll] at h ⊢
    rw [exec_onPort]
    split at h
    · rename_i u hu
      rw [hu]
      exact ih h _
    · cases h
    · cases h

/-- A sequence whose responses are all OK runs to the same state, but for the ports. -/
theorem askAll_runAll {is : List Instr} {ds : List Data} (h : askAll is s = .ok ds t) :
    ∃ q, runAll is s = .next (t.onPort q) := by
  induction is generalizing s ds with
  | nil => cases h; exact ⟨t.port, rfl⟩
  | cons i is ih =>
    obtain ⟨d, v, ds', hi, hs, -⟩ := askAll_cons_ok.mp h
    obtain ⟨u, w, hu, -, -, -, rfl⟩ := ask_ok hi
    obtain ⟨q, hq⟩ := ih hs
    obtain ⟨q', hq'⟩ := State.takeRsp_eq (s := u)
    obtain ⟨r, hr⟩ := runAll_onPort hq u.port
    rw [hq'] at hr
    exact ⟨r, by simpa [runAll, hu] using hr⟩

/-! ## Reading the results -/

/-- Reading counts by RDFREQ gives FREQ and changes nothing but the ports. -/
theorem askAll_rdfreq (syms : List Byte) :
    ∃ q, askAll (syms.map .rdfreq) s = .ok (syms.map fun y => (s.freqAt y).setWidth 40) (s.onPort q) := by
  induction syms generalizing s with
  | nil => exact ⟨s.port, rfl⟩
  | cons y ys ih =>
    have h : ask (.rdfreq y) s = .ok ((s.freqAt y).setWidth 40) (s.respond ((s.freqAt y).setWidth 40)).takeRsp :=
      ask_of_next (ph := s.phase) rfl rfl
    obtain ⟨p, hp⟩ := State.takeRsp_eq (s := s.respond ((s.freqAt y).setWidth 40))
    obtain ⟨q, hq⟩ := ih (s := s.onPort p)
    refine ⟨q, askAll_cons_ok.mpr ⟨_, _, _, h, ?_, rfl⟩⟩
    rw [hp]
    exact hq

/-- The frequency table that is read is FREQ, symbol by symbol. -/
theorem readFreqTable_eq :
    ∃ q, readFreqTable s = .ok (allSymbols.map fun y => (y, s.freqAt y)) (s.onPort q) := by
  obtain ⟨q, hq⟩ := askAll_rdfreq (s := s) allSymbols
  refine ⟨q, ?_⟩
  rw [readFreqTable, readTable, hq]
  simp only [OpResult.andThen, List.map_map, OpResult.ok.injEq, and_true]
  induction allSymbols with
  | nil => rfl
  | cons y ys ih => simp [ih]

/-- Its entries with a non-zero count are the ones that `decode` loads. -/
theorem present_eq_tableItems : FreqTable.present (allSymbols.map fun y => (y, s.freqAt y)) = s.tableItems := by
  simp only [FreqTable.present, State.tableItems, State.presentSyms, List.filter_map]
  rfl

/-- RDOUT in DONE with a byte left: its answer, and RDPTR one further. -/
theorem ask_rdout (hp : s.phase = .done) (hlt : s.rdptr.toNat < s.outlen.toNat) (hc : s.outlen.toNat ≤ s.outcap.toNat) :
    ∃ q, ask .rdout s =
      .ok ((Memory.read 0#8 s.outbuf s.rdptr.toNat).setWidth 40) ({ s with rdptr := s.rdptr + 1#40 }.onPort q) := by
  let t : State := { s with rdptr := s.rdptr + 1#40 }
  let d : Data := (Memory.read 0#8 s.outbuf s.rdptr.toNat).setWidth 40
  have hcap : s.rdptr.toNat < s.outcap.toNat := by omega
  have hne : s.rdptr ≠ s.outlen := fun he => by rw [he] at hlt; omega
  have hx : exec .rdout s = .next (t.respond d) := by
    simp [exec, execRdout, State.command, hp, hne, State.outAt, hcap, t, d]
  obtain ⟨q, hq⟩ := State.takeRsp_eq (s := t.respond d)
  exact ⟨q, by rw [ask_of_next (ph := s.phase) (d := d) hx rfl, hq]; rfl⟩

/-- RDOUT as often as there are bytes: OUTBUF from RDPTR on, and RDPTR behind them. -/
theorem askAll_rdouts (n : Nat) (hp : s.phase = .done) (hn : s.rdptr.toNat + n ≤ s.outlen.toNat)
    (hc : s.outlen.toNat ≤ s.outcap.toNat) :
    ∃ q, askAll (rdouts n) s =
      .ok ((List.range n).map fun k => (Memory.read 0#8 s.outbuf (s.rdptr.toNat + k)).setWidth 40)
        ({ s with rdptr := s.rdptr + BitVec.ofNat 40 n }.onPort q) := by
  induction n generalizing s with
  | zero => exact ⟨s.port, by simp [rdouts, State.onPort]⟩
  | succ n ih =>
    obtain ⟨p, ha⟩ := ask_rdout hp (by omega) hc
    have hr : (s.rdptr + 1#40).toNat = s.rdptr.toNat + 1 := by
      have := s.outcap.isLt
      rw [BitVec.toNat_add]
      exact Nat.mod_eq_of_lt (by simp; omega)
    obtain ⟨q, hs⟩ := ih (s := { s with rdptr := s.rdptr + 1#40 }.onPort p) hp
      (by simp only [State.onPort]; omega) hc
    have he : s.rdptr + BitVec.ofNat 40 (n + 1) = s.rdptr + 1#40 + BitVec.ofNat 40 n := by
      rw [Nat.add_comm, BitVec.ofNat_add, BitVec.add_assoc]
    rw [he]
    refine ⟨q, askAll_cons_ok.mpr ⟨_, _, _, ha, hs, ?_⟩⟩
    simp only [State.onPort, hr, List.range_succ_eq_map, List.map_cons, List.map_map, Nat.add_zero]
    congr 1
    exact List.map_congr_left fun k _ => by simp only [Function.comp]; congr 2; omega

/-- Reading `n` bytes in DONE gives OUTBUF from RDPTR on, where they are below OUTLEN. -/
theorem readBytes_rdouts (n : Nat) (hp : s.phase = .done) (hn : s.rdptr.toNat + n ≤ s.outlen.toNat)
    (hc : s.outlen.toNat ≤ s.outcap.toNat) :
    ∃ q, readBytes (rdouts n) s =
      .ok ((List.range n).map fun k => Memory.read 0#8 s.outbuf (s.rdptr.toNat + k))
        ({ s with rdptr := s.rdptr + BitVec.ofNat 40 n }.onPort q) := by
  obtain ⟨q, hq⟩ := askAll_rdouts n hp hn hc
  refine ⟨q, ?_⟩
  rw [readBytes, hq]
  simp only [OpResult.andThen, List.map_map, OpResult.ok.injEq, and_true]
  exact List.map_congr_left fun k _ => by simp

end Sys2Proof.Machine
end

