-- ==== Sys2Proof/Tests/Slice0.lean ====
section
/-! SUPPORT. The model's own tests: an ill-formed word for each check of WellFormed.lean, each command's word written out from
spec/30_encoding.md, one or two steps for each command with the answers of spec/95_test_vectors.md, and for each statement with
hypotheses a witness that meets them together. -/

-- One theorem at a time: kernel evaluations in parallel each take a thread, and the threads run out.
set_option Elab.async false

namespace Sys2Proof.Tests

open Sys2Proof.Machine

/-! ## Helpers -/

/-- A part just reset, with an output buffer of `cap` bytes. -/
def fresh (cap : Nat) : State := { State.reset with outcap := BitVec.ofNat 40 cap }

/-- Whether an outcome is a next state that meets a test. -/
def nextIs (o : Host.Outcome State Fault Refusal) (p : State → Bool) : Bool :=
  match o with
  | .next t => p t
  | .fault _ => false
  | .refused _ => false

/-- The state after commands, or the state before them if one stops. -/
def after (is : List Instr) (s : State) : State :=
  match runAll is s with
  | .next t => t
  | .fault _ => s
  | .refused _ => s

/-- One step from `s` on an offered word answers the response word `r`. -/
def answers (s : State) (w r : Word) : Bool :=
  nextIs (step (s.withOffer w)) fun t => t.port.rsp == some r

theorem run_after {is : List Instr} {s : State} (h : nextIs (runAll is s) (fun _ => true) = true) :
    runAll is s = .next (after is s) := by
  unfold after
  cases hr : runAll is s with
  | next t => rfl
  | fault f => simp [hr, nextIs] at h
  | refused r => simp [hr, nextIs] at h

/-- FREQ of "aaaaaaaab", the example of R140: 'a' 8, 'b' 1. -/
def abTable : List Instr := [.fset 0x61#8 8#32, .fset 0x62#8 1#32]

/-- The tree of R140's example. -/
def abBuilt (cap : Nat) : State := after (abTable ++ [.build]) (fresh cap)

/-- The codes of R160's example: 'b' = "0", 'a' = "1". -/
def abCoded (cap : Nat) : State := after [.genc] (abBuilt cap)

/-- A decode session of `d` bits on that tree. -/
def abDecoding (cap d : Nat) : State := after [.decs (BitVec.ofNat 40 d)] (abBuilt cap)

/-- One symbol, 'A', counted three times (program P1). -/
def oneBuilt (cap : Nat) : State := after [.fset 0x41#8 3#32, .build] (fresh cap)

/-! ## Well-formed words: each check refuses an ill-formed one -/

theorem test_rsv_must_be_zero : (Fields.mk 0x00#8 0#8 1#8 0#40).wellFormed .n = false := by decide
theorem test_n_sym_must_be_zero : (Fields.mk 0x20#8 1#8 0#8 0#40).wellFormed .n = false := by decide
theorem test_n_imm_must_be_zero : (Fields.mk 0x00#8 0#8 0#8 1#40).wellFormed .n = false := by decide
theorem test_s_imm_must_be_zero : (Fields.mk 0x10#8 0x41#8 0#8 1#40).wellFormed .s = false := by decide
theorem test_sv_imm_high_must_be_zero : (Fields.mk 0x11#8 0x61#8 0#8 0x0100000000#40).wellFormed .sv = false := by decide
theorem test_sw_imm_high_must_be_zero : (Fields.mk 0x31#8 0x41#8 0#8 8#40).wellFormed .sw = false := by decide
theorem test_r_imm_high_must_be_zero : (Fields.mk 0x03#8 0#8 0#8 0x20#40).wellFormed .r = false := by decide
theorem test_r_sym_must_be_zero : (Fields.mk 0x03#8 1#8 0#8 0#40).wellFormed .r = false := by decide
theorem test_x_imm_high_must_be_zero : (Fields.mk 0x21#8 0#8 0#8 0x400#40).wellFormed .x = false := by decide
theorem test_x_sym_must_be_zero : (Fields.mk 0x21#8 1#8 0#8 0#40).wellFormed .x = false := by decide
theorem test_l_sym_must_be_zero : (Fields.mk 0x50#8 1#8 0#8 0x17#40).wellFormed .l = false := by decide
theorem test_illegal_op_has_no_format : Format.ofOp 0x04#8 = none := by decide
theorem test_free_bits_may_be_ones : (Fields.mk 0x21#8 0#8 0#8 0x3FF#40).wellFormed .x = true := by decide

/-! ## Decoding: each command's word from R83, R90 and R95 -/

/-- What the decoder reads. -/
def reads (w : Word) (i : Instr) : Bool :=
  match decode w with
  | .ok j => i == j
  | .error _ => false

/-- How the decoder refuses. -/
def refuses (w : Word) (u : Undecoded) : Bool :=
  match decode w with
  | .ok _ => false
  | .error v => u == v

theorem test_decode_nop : reads 0x0000000000000000#64 .nop = true := by decide
theorem test_decode_clr : reads 0x0100000000000000#64 .clr = true := by decide
theorem test_decode_sess : reads 0x0200000000000000#64 .sess = true := by decide
theorem test_decode_rdreg : reads 0x030000000000000D#64 (.rdreg 13#5) = true := by decide
theorem test_decode_facc : reads 0x1061000000000000#64 (.facc 0x61#8) = true := by decide
theorem test_decode_fset : reads 0x11610000FFFFFFFF#64 (.fset 0x61#8 4294967295#32) = true := by decide
theorem test_decode_rdfreq : reads 0x1263000000000000#64 (.rdfreq 0x63#8) = true := by decide
theorem test_decode_build : reads 0x2000000000000000#64 .build = true := by decide
theorem test_decode_rdnode : reads 0x2100000000000208#64 (.rdnode true 8#9) = true := by decide
theorem test_decode_genc : reads 0x3000000000000000#64 .genc = true := by decide
theorem test_decode_rdcode : reads 0x3161000000000007#64 (.rdcode 0x61#8 7#3) = true := by decide
theorem test_decode_encb : reads 0x4072000000000000#64 (.encb 0x72#8) = true := by decide
theorem test_decode_encf : reads 0x4100000000000000#64 .encf = true := by decide
theorem test_decode_decs : reads 0x5000000000000017#64 (.decs 23#40) = true := by decide
theorem test_decode_decb : reads 0x516E000000000000#64 (.decb 0x6E#8) = true := by decide
theorem test_decode_decf : reads 0x5200000000000000#64 .decf = true := by decide
theorem test_decode_rdout : reads 0x6000000000000000#64 .rdout = true := by decide
theorem test_decode_bit_by_bit :
    reads 0b0011000101100001000000000000000000000000000000000000000000000101#64 (.rdcode 0x61#8 5#3) = true := by decide
theorem test_refuse_opcode : refuses 0xFFFFFFFFFFFFFFFF#64 .opcode = true := by decide
theorem test_refuse_field : refuses 0x3001000000000000#64 .field = true := by decide

/-! ## Steps, with the responses of spec/95_test_vectors.md -/

/-- 2.6.1, first row. -/
theorem test_nop : answers (fresh 9) 0x0000000000000000#64 0x0000000000000000#64 = true := by decide +kernel
/-- 2.6.1: the opcode check comes first. -/
theorem test_illegal_word : answers (fresh 9) 0xFFFFFFFFFFFFFFFF#64 0x8000000000000000#64 = true := by decide +kernel
/-- 2.6.1: the field check comes before the phase check. -/
theorem test_field_before_phase : answers (fresh 9) 0x3001000000000000#64 0x8100000000000000#64 = true := by
  decide +kernel
/-- 2.6.4. -/
theorem test_clr : answers (abCoded 9) 0x0100000000000000#64 0x0000000000000000#64 = true := by decide +kernel
/-- 2.6.3: DONE after an encode goes back to CODED. -/
theorem test_sess :
    answers (after [.encf] (abCoded 9)) 0x0200000000000000#64 0x0020000000000000#64 = true := by decide +kernel
/-- P6 step 18: ID. -/
theorem test_rdreg_id : answers (after [.encf] (abCoded 9)) 0x030000000000000D#64 0x0050004855464601#64 = true := by
  decide +kernel
/-- P6 step 11: STATUS in ERROR after E_ENC_NOCODE, CV 1, SHAPE 2. -/
theorem test_rdreg_status :
    answers (after [.genc, .encb 0x79#8] (oneBuilt 9)) 0x0300000000000000#64 0x0060000000000166#64 = true := by
  decide +kernel
/-- 2.1.1: the third count. -/
theorem test_facc :
    answers (after [.facc 0x41#8, .facc 0x41#8] (fresh 9)) 0x1041000000000000#64 0x0000000000000003#64 = true := by
  decide +kernel
/-- The overflow table, step 2. -/
theorem test_facc_overflow :
    answers (after [.fset 0x61#8 4294967295#32] (fresh 9)) 0x1062000000000000#64 0x2060000000000000#64 = true := by
  decide +kernel
/-- 2.1.4: the last value set wins. -/
theorem test_fset_again :
    answers (after [.fset 0x61#8 5#32, .fset 0x62#8 2#32] (fresh 9)) 0x1161000000000002#64 0x0000000000000004#64 = true := by
  decide +kernel
/-- The overflow table, step 8: 7 + (2^32 − 1). -/
theorem test_fset_overflow :
    answers (after [.fset 0x61#8 7#32] (fresh 9)) 0x11620000FFFFFFFF#64 0x2060000000000000#64 = true := by decide +kernel
/-- 2.1.3. -/
theorem test_rdfreq :
    answers (after [.fset 0x61#8 5#32, .fset 0x62#8 2#32] (fresh 9)) 0x1261000000000000#64 0x0000000000000005#64 = true := by
  decide +kernel
/-- 2.2.1: two leaves. -/
theorem test_build : answers (after abTable (fresh 9)) 0x2000000000000000#64 0x0010000000000002#64 = true := by
  decide +kernel
/-- 2.2.3 "ABCC", the tie of a leaf and an internal node: the root is Internal(4, 2, 3). -/
theorem test_build_tie :
    answers (after [.fset 0x41#8 1#32, .fset 0x42#8 1#32, .fset 0x43#8 2#32, .build] (fresh 9)) 0x2100000000000204#64
      (rspWord 0x00#8 .built (BitVec.ofNat 40 (3 * 512 + 2))) = true := by decide +kernel
/-- 2.2.1: the root, word 1: right 0, left 1. -/
theorem test_rdnode : answers (abBuilt 9) 0x2100000000000202#64 0x0010000000000001#64 = true := by decide +kernel
/-- 2.2.1: index 511 is never a node. -/
theorem test_rdnode_range : answers (abBuilt 9) 0x21000000000003FF#64 0x8310000000000000#64 = true := by decide +kernel
/-- P5 step 12. -/
theorem test_genc : answers (abBuilt 9) 0x3000000000000000#64 0x0020000000000000#64 = true := by decide +kernel
/-- 2.3.3: the second GENC is out of phase. -/
theorem test_genc_twice : answers (abCoded 9) 0x3000000000000000#64 0x8220000000000000#64 = true := by decide +kernel
/-- 2.3.2: 'a' = "1". -/
theorem test_rdcode : answers (abCoded 9) 0x3161000000000000#64 0x0020000100000001#64 = true := by decide +kernel
/-- 2.3.2: CV = 0. -/
theorem test_rdcode_no_table : answers (oneBuilt 9) 0x3141000000000000#64 0x8210000000000000#64 = true := by
  decide +kernel
/-- 2.4.2: 'b' after eight 'a' leaves ACC 0, ACCN 1, and 0xFF in OUTBUF. -/
theorem test_encb :
    nextIs (exec (.encb 0x62#8) (after (List.replicate 8 (.encb 0x61#8)) (abCoded 9))) (fun t =>
      t.encBits == 9#40 && t.acc == 0#8 && t.accn == 1#3 && t.outbuf == [(0, 0xFF#8)] && t.outlen == 1#40) = true := by
  decide +kernel
/-- P6 step 9. -/
theorem test_encb_no_code : answers (after [.genc] (oneBuilt 9)) 0x4079000000000000#64 0x0160000000000000#64 = true := by
  decide +kernel
/-- P1 step 11: `dataBits` 3. -/
theorem test_encf :
    answers (after (.genc :: List.replicate 3 (.encb 0x41#8)) (oneBuilt 9)) 0x4100000000000000#64 0x0050000000000003#64
      = true := by decide +kernel
/-- P8: the padded byte does not fit. -/
theorem test_encf_overflow :
    answers (after (List.replicate 9 (.encb 0x61#8)) (abCoded 1)) 0x4100000000000000#64 0x2160000000000000#64 = true := by
  decide +kernel
/-- P5 step 27. -/
theorem test_decs : answers (abCoded 9) 0x5000000000000009#64 0x0040000000000000#64 = true := by decide +kernel
/-- P5 step 28: eight 'a'. -/
theorem test_decb : answers (abDecoding 9 9) 0x51FF000000000000#64 0x0040000000000008#64 = true := by decide +kernel
/-- P9: the second symbol does not fit, and the whole DECB is undone. -/
theorem test_decb_overflow :
    nextIs (exec (.decb 0x80#8) (abDecoding 1 2)) (fun t =>
      t.phase == .error && t.errcode == 0x21#8 && t.decConsumed == 0#40 && t.outlen == 0#40) = true := by decide +kernel
/-- P5 step 30. -/
theorem test_decf :
    answers (after [.decb 0xFF#8, .decb 0x00#8] (abDecoding 9 9)) 0x5200000000000000#64 0x0050000000000009#64 = true := by
  decide +kernel
/-- P4 step 11: too few bits. -/
theorem test_decf_short :
    answers (after [.decb 0xFF#8] (abDecoding 9 9)) 0x5200000000000000#64 0x1060000000000000#64 = true := by
  decide +kernel
/-- P5 step 31: the first decoded symbol. -/
theorem test_rdout :
    answers (after [.decb 0xFF#8, .decb 0x00#8, .decf] (abDecoding 9 9)) 0x6000000000000000#64 0x0050000000000061#64
      = true := by decide +kernel
/-- 2.2.5: nothing to read after an empty encode. -/
theorem test_rdout_empty :
    answers (after [.build, .genc, .encf] (fresh 9)) 0x6000000000000000#64 0x8450000000000000#64 = true := by
  decide +kernel

/-! ## The operations (R225, R226) -/

/-- Nine bytes: eight 'a' and a 'b' (program P5, the example of R140). -/
def aaaaaaaab : List Byte := List.replicate 8 0x61#8 ++ [0x62#8]

/-- Vector 2.4.1: `dataBits` 9, packed FF 00, and the counts of the two letters. -/
theorem test_encode :
    (match hostEncode aaaaaaaab (fresh 9) with
    | .ok r _ => r.dataBits == 9#40 && r.packed == [0xFF#8, 0x00#8] && r.table.length == 256 &&
        r.table.present == [(0x61#8, 8#32), (0x62#8, 1#32)]
    | _ => false) = true := by decide +kernel
/-- E2 of spec/95_test_vectors.md: no `dataBits`, no packed bytes, an all-zero table. -/
theorem test_encode_empty :
    (match hostEncode [] (fresh 9) with
    | .ok r _ => r.dataBits == 0#40 && r.packed == [] && r.table.present == []
    | _ => false) = true := by decide +kernel
/-- The packed bytes do not fit: no result, E_OUT_OVF. -/
theorem test_encode_fails :
    (match hostEncode aaaaaaaab (fresh 1) with
    | .failed e st _ => e == .unnamedFatal && st == 0x21#8
    | _ => false) = true := by decide +kernel
/-- P5: the nine bytes again, from the table, 9 and FF 00. -/
theorem test_decode :
    (match hostDecode [(0x61#8, 8#32), (0x62#8, 1#32), (0x63#8, 0#32)] 9#40 [0xFF#8, 0x00#8] (fresh 9) with
    | .ok out _ => out == aaaaaaaab
    | _ => false) = true := by decide +kernel
/-- A byte short: a `DecodingError` at DECF (R244). -/
theorem test_decode_short :
    (match hostDecode [(0x61#8, 8#32), (0x62#8, 1#32)] 9#40 [0xFF#8] (fresh 9) with
    | .failed e st _ => e == .decodingError && st == 0x10#8
    | _ => false) = true := by decide +kernel

/-! ## The assembler (R95, R96) -/

theorem test_asm_symbol : assembleLine "FACC 'a' ; count".toList = some [.facc 0x61#8] := by decide +kernel
theorem test_asm_regname : assembleLine "RDREG ENC_BITS".toList = some [.rdreg 5#5] := by decide +kernel
theorem test_asm_rdnode : assembleLine "RDNODE 8, 1".toList = some [.rdnode true 8#9] := by decide +kernel
theorem test_asm_does_not_fit : assembleLine "DECB 0x100".toList = none := by decide +kernel
theorem test_asm_fload :
    assembleLine "FLOAD 'a':5, 0x62:2".toList = some [.fset 0x61#8 5#32, .fset 0x62#8 2#32] := by decide +kernel
theorem test_asm_string :
    assembleLine ['F', 'A', 'C', 'C', 'S', ' ', Char.ofNat 34, 'a', 'b', Char.ofNat 34] =
      some [.facc 0x61#8, .facc 0x62#8] := by decide +kernel

end Sys2Proof.Tests
end

