-- ==== Sys2Proof/Tests/Witness0.lean ====
section
/-! SUPPORT. For each statement of Certificates/Slice0/Obligations.lean with hypotheses, a concrete state and operands that
meet them together; one for each clause, at a boundary value of its range. -/

-- One theorem at a time: kernel evaluations in parallel each take a thread, and the threads run out.
set_option Elab.async false

namespace Sys2Proof.Tests

open Sys2Proof.Machine

/-! ## Deciding the invariant of a concrete state -/

/-- The code table check of `State.CodesOk`, as a Bool. -/
def codesCheck (s : State) : Bool :=
  !s.cv ||
    match s.treeCodes with
    | .ok codes => s.clen == codeLens codes && s.cbits == codeWords codes
    | .error _ => false

theorem codesOk_of_check {s : State} (h : codesCheck s = true) : s.CodesOk := by
  intro hcv
  unfold codesCheck at h
  rw [hcv] at h
  split at h
  · rename_i codes hc
    simp only [Bool.not_true, Bool.false_or, Bool.and_eq_true, beq_iff_eq] at h
    exact ⟨codes, hc, h.1, h.2⟩
  · simp at h

/-- The invariant of a concrete state, as a Bool. -/
def invCheck (s : State) : Bool :=
  decide s.MemOk && decide s.TotalOk && decide s.PhaseOk && decide s.SessionOk && decide s.BoundsOk && decide s.PackerOk &&
    decide s.DoneOk && decide s.WalkOk && decide s.TreeOk && decide s.WalkInTree && codesCheck s

theorem inv_of_check {s : State} (h : invCheck s = true) : s.Inv := by
  simp only [invCheck, Bool.and_eq_true, decide_eq_true_eq] at h
  obtain ⟨⟨⟨⟨⟨⟨⟨⟨⟨⟨h1, h2⟩, h3⟩, h4⟩, h5⟩, h6⟩, h7⟩, h8⟩, h9⟩, h10⟩, h11⟩ := h
  exact ⟨h1, h2, h3, h4, h5, h6, h7, h8, h9, h10, codesOk_of_check h11⟩

theorem inv_fresh : (fresh 4).Inv := inv_of_check (by decide +kernel)
theorem inv_abBuilt : (abBuilt 4).Inv := inv_of_check (by decide +kernel)
theorem inv_abCoded : (abCoded 4).Inv := inv_of_check (by decide +kernel)
theorem inv_oneBuilt : (oneBuilt 4).Inv := inv_of_check (by decide +kernel)

/-- The host about to do one thing. -/
def doing (a : HostAct) (s : State) : State := s.withHost [a]

/-- A response pending. -/
def pending (s : State) : State := s.respond 5#40

/-! ## Encoding -/

theorem wit_EncodeOfDecodeIsTheWord : ∃ w i, decode w = .ok i :=
  ⟨0x50000000FFFFFFFF#64, .decs 0x00FFFFFFFF#40, rfl⟩

theorem wit_DecodeChecksOpcodeThenFields :
    ∃ w fmt, Format.ofOp (Fields.ofWord w).op = some fmt ∧ (Fields.ofWord w).wellFormed fmt = true :=
  ⟨0x21000000000003FF#64, .x, by decide⟩

/-! ## The ports and the step -/

theorem wit_StepRunsTheDecodedCommand :
    ∃ (s : State) (w : Word) (rest : List HostAct) (i : Instr),
      s.port.host = .offer w :: rest ∧ s.port.rsp = none ∧ decode w = .ok i :=
  ⟨doing (.offer 0x2000000000000000#64) (fresh 4), _, _, .build, rfl, rfl, rfl⟩

theorem wit_FetchWordRunsNext : ∃ w i, decodeTableWord 64 w = some i :=
  ⟨0x6000000000000000, .rdout, by decide⟩

theorem wit_IllegalOpcodeIsRejected :
    ∃ (s : State) (w : Word) (rest : List HostAct),
      s.port.host = .offer w :: rest ∧ s.port.rsp = none ∧ Format.ofOp (Fields.ofWord w).op = none :=
  ⟨doing (.offer 0x0400000000000000#64) (fresh 4), _, _, rfl, rfl, by decide⟩

theorem wit_ReservedBitIsRejected :
    ∃ (s : State) (w : Word) (rest : List HostAct) (fmt : Format),
      s.port.host = .offer w :: rest ∧ s.port.rsp = none ∧ Format.ofOp (Fields.ofWord w).op = some fmt ∧
        (Fields.ofWord w).wellFormed fmt = false :=
  ⟨doing (.offer 0x0300000000000020#64) (fresh 4), _, _, .r, rfl, rfl, by decide, by decide⟩

theorem wit_OneCommandInFlight_offer :
    ∃ (s : State) (rest : List HostAct) (w r : Word), s.port.host = .offer w :: rest ∧ s.port.rsp = some r :=
  ⟨doing (.offer 0#64) (pending (fresh 4)), _, _, _, rfl, rfl⟩

theorem wit_OneCommandInFlight_take :
    ∃ (s : State) (rest : List HostAct) (r : Word), s.port.host = .take :: rest ∧ s.port.rsp = some r :=
  ⟨doing .take (pending (fresh 4)), _, _, rfl, rfl⟩

theorem wit_OneCommandInFlight_takeNothing :
    ∃ (s : State) (rest : List HostAct), s.port.host = .take :: rest ∧ s.port.rsp = none :=
  ⟨doing .take (fresh 4), _, rfl, rfl⟩

theorem wit_OneCommandInFlight_idle : ∃ s : State, s.port.host = [] := ⟨fresh 4, rfl⟩

theorem wit_OneResponsePerAcceptedWord :
    ∃ (s t : State) (w : Word) (rest : List HostAct),
      s.port.host = .offer w :: rest ∧ s.port.rsp = none ∧ step s = .next t :=
  ⟨doing (.offer 0#64) (fresh 4), (fresh 4).respond 0#40, _, [], rfl, rfl, rfl⟩

theorem wit_ResetActResetsEverything : ∃ (s : State) (rest : List HostAct), s.port.host = .rst :: rest :=
  ⟨doing .rst (pending (abCoded 4)), _, rfl⟩

/-! ## Control -/

theorem wit_RdregReadsEachRegister_first : ∃ r : BitVec 5, 0x0D < r.toNat ∧ r = 0x0E#5 := ⟨0x0E#5, by decide⟩
theorem wit_RdregReadsEachRegister_last : ∃ r : BitVec 5, 0x0D < r.toNat ∧ r = 0x1F#5 := ⟨0x1F#5, by decide⟩

/-- A decode that fills an output buffer of nine bytes. -/
def abDone : State := after [.decb 0xFF#8, .decb 0x00#8, .decf] (abDecoding 9 9)

/-- The same with every byte read but the last. -/
def abLastByte : State := after (List.replicate 8 .rdout) abDone

theorem wit_RdoutReadsTheNextByte_last :
    ∃ (s : State) (b : Byte), s.phase = .done ∧ s.outlen.toNat ≤ s.outcap.toNat ∧ s.outBytes[s.rdptr.toNat]? = some b ∧
      s.rdptr.toNat + 1 = s.outcap.toNat :=
  ⟨abLastByte, 0x62#8, by decide +kernel⟩

theorem wit_RdoutReadsTheNextByte_empty : ∃ s : State, s.phase = .done ∧ s.rdptr = s.outlen :=
  ⟨after [.rdout] abLastByte, by decide +kernel⟩

theorem wit_RdoutReadsTheNextByte_phase : ∃ s : State, s.phase ≠ .done := ⟨fresh 4, by decide⟩

/-! ## Frequency accumulator -/

/-- TOTAL one below its largest value. -/
def nearlyFull : State := after [.fset 0x61#8 4294967294#32] (fresh 4)

/-- TOTAL at its largest value. -/
def full : State := after [.fset 0x61#8 4294967295#32] (fresh 4)

theorem wit_FaccCountsOne : ∃ s : State, s.MemOk ∧ s.phase = .idle ∧ s.total.toNat < 2 ^ 32 - 1 :=
  ⟨nearlyFull, by decide +kernel⟩

theorem wit_FsetSetsTheCount :
    ∃ (s : State) (sym : Byte) (v : Count), s.MemOk ∧ s.TotalOk ∧ s.phase = .idle ∧
      s.total.toNat - (s.freqAt sym).toNat + v.toNat = 2 ^ 32 - 1 :=
  ⟨full, 0x61#8, 4294967295#32, by decide +kernel⟩

theorem wit_FrequencyOverflowIsFatal_facc : ∃ s : State, s.phase = .idle ∧ s.total.toNat = 2 ^ 32 - 1 :=
  ⟨full, by decide +kernel⟩

theorem wit_FrequencyOverflowIsFatal_fset :
    ∃ (s : State) (sym : Byte) (v : Count), s.phase = .idle ∧ s.TotalOk ∧
      2 ^ 32 - 1 < s.total.toNat - (s.freqAt sym).toNat + v.toNat :=
  ⟨full, 0x62#8, 1#32, by decide +kernel⟩

theorem wit_FaccSequenceCountsOccurrences :
    ∃ (s : State) (S : List Byte), s.MemOk ∧ s.TotalOk ∧ s.phase = .idle ∧ s.total.toNat + S.length = 2 ^ 32 - 1 :=
  ⟨nearlyFull, [0x61#8], by decide +kernel⟩

/-! ## Tree builder -/

theorem wit_BuildMakesTheTree_empty : ∃ s : State, s.MemOk ∧ s.phase = .idle ∧ s.presentSyms = [] :=
  ⟨fresh 4, by decide +kernel⟩

theorem wit_BuildMakesTheTree_one : ∃ s : State, s.MemOk ∧ s.phase = .idle ∧ s.presentSyms.length = 1 :=
  ⟨full, by decide +kernel⟩

/-- Two symbols counted, no tree yet: the hypotheses of BuildMergesTheTwoLeast and BuildMakesATree too. -/
theorem wit_BuildMakesTheTree_general :
    ∃ s : State, s.MemOk ∧ s.TotalOk ∧ s.phase = .idle ∧ s.presentSyms.length = 2 :=
  ⟨after abTable (fresh 4), by decide +kernel⟩

theorem wit_BuildMergesTheTwoLeast :
    ∃ (s t : State) (m : Nat), s.MemOk ∧ s.TotalOk ∧ s.phase = .idle ∧ t = after [.build] s ∧
      t.nleaves.toNat ≤ m ∧ m < t.nnodes.toNat :=
  ⟨after abTable (fresh 4), _, 2, by decide +kernel, by decide +kernel, by decide +kernel, rfl, by decide +kernel,
    by decide +kernel⟩

theorem wit_BuildMakesATree : ∃ s : State, s.MemOk ∧ s.TotalOk ∧ s.phase = .idle ∧ s.presentSyms ≠ [] :=
  ⟨after abTable (fresh 4), by decide +kernel⟩

theorem wit_SameFreqGivesTheSameTree :
    ∃ s s' t t' : State, s.MemOk ∧ s'.MemOk ∧ (∀ sym, s.freqAt sym = s'.freqAt sym) ∧ s.phase = .idle ∧
      s'.phase = .idle ∧ exec .build s = .next t ∧ exec .build s' = .next t' :=
  ⟨after abTable (fresh 4), after abTable.reverse (fresh 5), _, _, by decide +kernel, by decide +kernel, by decide +kernel,
    by decide +kernel, by decide +kernel, rfl, rfl⟩

theorem wit_RdnodeReadsTheNode :
    ∃ (s : State) (i : NodeIdx), i.toNat < s.nnodes.toNat ∧ s.nnodes.toNat ≤ 511 ∧ i.toNat + 1 = s.nnodes.toNat :=
  ⟨abBuilt 4, 2#9, by decide +kernel⟩

theorem wit_RdnodeReadsTheNode_range : ∃ (s : State) (i : NodeIdx), s.nnodes.toNat ≤ i.toNat ∧ i = 3#9 :=
  ⟨abBuilt 4, 3#9, by decide +kernel⟩

/-! ## Code table generator -/

theorem wit_GencMakesTheCodeTable_general : ∃ s : State, s.Inv ∧ s.phase = .built ∧ s.shape = .general :=
  ⟨abBuilt 4, inv_abBuilt, by decide +kernel⟩

theorem wit_GencMakesTheCodeTable_single : ∃ s : State, s.Inv ∧ s.phase = .built ∧ s.shape = .single :=
  ⟨oneBuilt 4, inv_oneBuilt, by decide +kernel⟩

theorem wit_GencMakesTheCodeTable_absent : ∃ s : State, s.Inv ∧ s.phase = .built ∧ s.shape = .absent :=
  ⟨after [.build] (fresh 4), inv_of_check (by decide +kernel), by decide +kernel⟩

theorem exec_of_next {i : Instr} {s : State} (h : nextIs (exec i s) (fun _ => true) = true) :
    exec i s = .next (after [i] s) := by
  cases hr : exec i s with
  | next t => simp [after, runAll, hr]
  | fault f => simp [hr, nextIs] at h
  | refused r => simp [hr, nextIs] at h

theorem wit_GencCodesArePathsToLeaves :
    ∃ s t : State, s.Inv ∧ s.phase = .built ∧ s.shape = .general ∧ exec .genc s = .next t :=
  ⟨abBuilt 4, _, inv_abBuilt, by decide +kernel, by decide +kernel, exec_of_next (by decide +kernel)⟩

theorem wit_CodesArePrefixFree :
    ∃ (s : State) (x y : Byte), s.Inv ∧ s.cv = true ∧ x ≠ y ∧ s.clenAt x ≠ 0#8 ∧ s.clenAt y ≠ 0#8 :=
  ⟨abCoded 4, 0x61#8, 0x62#8, inv_abCoded, by decide +kernel⟩

theorem wit_CodeLengthsMeetKraftEquality : ∃ s : State, s.Inv ∧ s.cv = true ∧ s.shape = .general :=
  ⟨abCoded 4, inv_abCoded, by decide +kernel⟩

theorem wit_RdcodeReadsTheCode : ∃ s : State, s.cv = true := ⟨abCoded 4, by decide +kernel⟩
theorem wit_RdcodeReadsTheCode_phase : ∃ s : State, s.cv = false := ⟨abBuilt 4, by decide +kernel⟩

/-! ## Bit packer -/

theorem wit_EncbAppendsTheCode_coded :
    ∃ (s : State) (sym : Byte), s.MemOk ∧ (s.phase = .coded ∨ s.phase = .encoding) ∧ s.clenAt sym ≠ 0#8 ∧
      s.encBits.toNat + (s.clenAt sym).toNat ≤ 2 ^ 40 - 1 ∧
      s.outlen.toNat + (s.accn.toNat + (s.clenAt sym).toNat) / 8 ≤ s.outcap.toNat :=
  ⟨abCoded 1, 0x61#8, by decide +kernel⟩

/-- The eighth bit, which fills the last byte of OUTBUF. -/
theorem wit_EncbAppendsTheCode_lastByte :
    ∃ (s : State) (sym : Byte), s.MemOk ∧ (s.phase = .coded ∨ s.phase = .encoding) ∧ s.clenAt sym ≠ 0#8 ∧
      s.encBits.toNat + (s.clenAt sym).toNat ≤ 2 ^ 40 - 1 ∧
      s.outlen.toNat + (s.accn.toNat + (s.clenAt sym).toNat) / 8 = s.outcap.toNat :=
  ⟨after (List.replicate 7 (.encb 0x61#8)) (abCoded 1), 0x61#8, by decide +kernel⟩

theorem wit_EncbFatalChecksInOrder_noCode :
    ∃ (s : State) (sym : Byte), (s.phase = .coded ∨ s.phase = .encoding) ∧ s.clenAt sym = 0#8 :=
  ⟨abCoded 1, 0x63#8, by decide +kernel⟩

theorem wit_EncbFatalChecksInOrder_bits :
    ∃ (s : State) (sym : Byte), (s.phase = .coded ∨ s.phase = .encoding) ∧ s.clenAt sym ≠ 0#8 ∧
      2 ^ 40 - 1 < s.encBits.toNat + (s.clenAt sym).toNat :=
  ⟨{ abCoded 1 with encBits := 0xFFFFFFFFFF#40 }, 0x61#8, by decide +kernel⟩

theorem wit_EncbFatalChecksInOrder_out :
    ∃ (s : State) (sym : Byte), (s.phase = .coded ∨ s.phase = .encoding) ∧ s.clenAt sym ≠ 0#8 ∧
      s.encBits.toNat + (s.clenAt sym).toNat ≤ 2 ^ 40 - 1 ∧ s.outlen.toNat ≤ s.outcap.toNat ∧
      s.outcap.toNat < s.outlen.toNat + (s.accn.toNat + (s.clenAt sym).toNat) / 8 :=
  ⟨after (List.replicate 15 (.encb 0x61#8)) (abCoded 1), 0x61#8, by decide +kernel⟩

theorem wit_EncfPadsAndFlushes_pending :
    ∃ s : State, s.MemOk ∧ s.PackerOk ∧ (s.phase = .coded ∨ s.phase = .encoding) ∧
      (s.accn ≠ 0#3 → s.outlen.toNat < s.outcap.toNat) ∧ s.accn = 7#3 :=
  ⟨after (List.replicate 7 (.encb 0x61#8)) (abCoded 1), by decide +kernel⟩

theorem wit_EncfPadsAndFlushes_nothingPending :
    ∃ s : State, s.MemOk ∧ s.PackerOk ∧ (s.phase = .coded ∨ s.phase = .encoding) ∧
      (s.accn ≠ 0#3 → s.outlen.toNat < s.outcap.toNat) ∧ s.accn = 0#3 ∧ s.outlen = s.outcap :=
  ⟨after (List.replicate 8 (.encb 0x61#8)) (abCoded 1), by decide +kernel⟩

theorem wit_EncfOverflowIsFatal :
    ∃ s : State, (s.phase = .coded ∨ s.phase = .encoding) ∧ s.accn ≠ 0#3 ∧ s.outlen = s.outcap :=
  ⟨after (List.replicate 9 (.encb 0x61#8)) (abCoded 1), by decide +kernel⟩

/-! ## Bit unpacker -/

theorem wit_DecsOpensASession_built : ∃ s : State, s.phase = .built ∨ s.phase = .coded := ⟨abBuilt 4, by decide +kernel⟩
theorem wit_DecsOpensASession_phase : ∃ s : State, s.phase ≠ .built ∧ s.phase ≠ .coded := ⟨fresh 4, by decide⟩

/-- One bit left of the byte's eight. -/
theorem wit_DecbWalksTheTree :
    ∃ (s : State) (b : Byte), s.Inv ∧ s.phase = .decoding ∧ s.shape = .general ∧
      s.outlen.toNat + (s.walkBits s.walk ((lowBits b 8).take (s.decTarget.toNat - s.decConsumed.toNat))).1.length =
        s.outcap.toNat :=
  ⟨after [.decb 0xFF#8] (abDecoding 9 9), 0x00#8, inv_of_check (by decide +kernel), by decide +kernel⟩

theorem wit_DecbOfASingleLeafRepeatsTheSymbol :
    ∃ s : State, s.MemOk ∧ s.phase = .decoding ∧ s.shape = .single ∧
      s.outlen.toNat + min 8 (s.decTarget.toNat - s.decConsumed.toNat) = s.outcap.toNat :=
  ⟨after [.decs 3#40] (oneBuilt 3), by decide +kernel⟩

theorem wit_AbsentTreeDecodesToNothing : ∃ s : State, s.phase = .decoding ∧ s.shape = .absent :=
  ⟨after [.build, .decs 5#40] (fresh 4), by decide +kernel⟩

theorem wit_DecbOverflowIsFatal_general :
    ∃ (s : State) (b : Byte), s.Inv ∧ s.phase = .decoding ∧ s.shape = .general ∧
      s.outcap.toNat < s.outlen.toNat +
        (s.walkBits s.walk ((lowBits b 8).take (s.decTarget.toNat - s.decConsumed.toNat))).1.length :=
  ⟨abDecoding 1 2, 0x80#8, inv_of_check (by decide +kernel), by decide +kernel⟩

theorem wit_DecbOverflowIsFatal_single :
    ∃ s : State, s.Inv ∧ s.phase = .decoding ∧ s.shape = .single ∧
      s.outcap.toNat < s.outlen.toNat + min 8 (s.decTarget.toNat - s.decConsumed.toNat) :=
  ⟨after [.decs 3#40] (oneBuilt 2), inv_of_check (by decide +kernel), by decide +kernel⟩

theorem wit_DecfChecksTheEnd_short :
    ∃ s : State, s.phase = .decoding ∧ s.shape ≠ .absent ∧ s.decConsumed.toNat < s.decTarget.toNat :=
  ⟨after [.decb 0xFF#8] (abDecoding 9 9), by decide +kernel⟩

/-- "ABCC" has a two-bit code: one bit of it leaves the walk off ROOT. -/
theorem wit_DecfChecksTheEnd_incomplete :
    ∃ s : State, s.phase = .decoding ∧ s.shape ≠ .absent ∧ s.decTarget.toNat ≤ s.decConsumed.toNat ∧
      s.shape = .general ∧ s.walk ≠ s.root :=
  ⟨after [.fset 0x41#8 1#32, .fset 0x42#8 1#32, .fset 0x43#8 2#32, .build, .decs 1#40, .decb 0x80#8] (fresh 4),
    by decide +kernel⟩

theorem wit_DecfChecksTheEnd_done :
    ∃ s : State, s.phase = .decoding ∧ s.shape ≠ .absent ∧ s.decTarget.toNat ≤ s.decConsumed.toNat ∧
      (s.shape = .general → s.walk = s.root) :=
  ⟨abDecoding 4 0, by decide +kernel⟩

theorem wit_WalkOverCodesGivesTheSymbols :
    ∃ (s : State) (S : List Byte), s.Inv ∧ s.cv = true ∧ s.shape = .general ∧ (∀ x ∈ S, s.clenAt x ≠ 0#8) ∧ S ≠ [] :=
  ⟨abCoded 4, [0x62#8, 0x61#8], inv_abCoded, by decide +kernel⟩

theorem wit_DecodeOfEncodeIsTheSequence :
    ∃ (s t u : State) (S : List Byte), s.Inv ∧ u.Inv ∧ S.length ≤ 2 ^ 32 - 1 ∧ S.length ≤ u.outcap.toNat ∧
      runAll (encodeOp S) s = .next t ∧ t.phase = .done ∧ S ≠ [] :=
  ⟨fresh 4, _, fresh 4, [0x41#8], inv_fresh, inv_fresh, by decide, by decide, run_after (by decide +kernel),
    by decide +kernel, by decide⟩

/-- Whether an operation gives a result that meets a test. -/
def gives {α : Type} (r : OpResult α) (p : α → Bool) : Bool :=
  match r with
  | .ok a _ => p a
  | .failed _ _ _ | .stopped _ | .refused _ | .unanswered => false

theorem ok_of_gives {α : Type} {r : OpResult α} {p : α → Bool} (h : gives r p = true) :
    ∃ a t, r = .ok a t ∧ p a = true := by
  cases r with
  | ok a t => exact ⟨a, t, rfl, h⟩
  | failed _ _ _ => simp [gives] at h
  | stopped _ => simp [gives] at h
  | refused _ => simp [gives] at h
  | unanswered => simp [gives] at h

theorem wit_DecodeOfEncodeIsTheSequence_operation :
    ∃ (s u : State) (S : List Byte) (r : Encoded) (t : State), s.Inv ∧ u.Inv ∧ S.length ≤ 2 ^ 32 - 1 ∧
      S.length = u.outcap.toNat ∧ hostEncode S s = .ok r t ∧ S ≠ [] := by
  obtain ⟨r, t, h, -⟩ := ok_of_gives (r := hostEncode [0x41#8, 0x42#8, 0x41#8, 0x43#8] (fresh 4)) (p := fun _ => true)
    (by decide +kernel)
  exact ⟨_, fresh 4, _, r, t, inv_fresh, inv_fresh, by decide, by decide, h, by decide⟩

theorem wit_TruncatedStreamIsShort_operation :
    ∃ (s u : State) (S P : List Byte) (r : Encoded) (t : State), s.Inv ∧ u.Inv ∧ S.length ≤ 2 ^ 32 - 1 ∧
      S.length ≤ u.outcap.toNat ∧ hostEncode S s = .ok r t ∧ P <+: r.packed ∧ P ≠ r.packed := by
  obtain ⟨r, t, h, hp⟩ := ok_of_gives (r := hostEncode [0x41#8] (fresh 4)) (p := fun r => !r.packed.isEmpty)
    (by decide +kernel)
  exact ⟨_, fresh 4, _, [], r, t, inv_fresh, inv_fresh, by decide, by decide, h, List.nil_prefix, fun he => by
    simp [← he] at hp⟩

theorem wit_TruncatedStreamIsShort :
    ∃ (s t u : State) (S P : List Byte), s.Inv ∧ u.Inv ∧ S.length ≤ 2 ^ 32 - 1 ∧ S.length ≤ u.outcap.toNat ∧
      runAll (encodeOp S) s = .next t ∧ t.phase = .done ∧ P <+: t.outBytes ∧ P ≠ t.outBytes :=
  ⟨fresh 4, _, fresh 4, [0x41#8], [], inv_fresh, inv_fresh, by decide, by decide, run_after (by decide +kernel),
    by decide +kernel, List.nil_prefix, by decide +kernel⟩

/-! ## The machine as a whole -/

theorem wit_WrongPhaseIsRejected : ∃ (i : Instr) (s : State), phaseLegal i s = false := ⟨.rdout, fresh 4, by decide⟩

theorem wit_LegalPhaseIsNotRejectedForPhase :
    ∃ (i : Instr) (s t : State) (r : Word), phaseLegal i s = true ∧ exec i s = .next t ∧ t.port.rsp = some r :=
  ⟨.nop, fresh 4, _, _, rfl, rfl, rfl⟩

theorem wit_FatalErrorIsPrecise :
    ∃ (i : Instr) (s t : State) (r : Word), exec i s = .next t ∧ t.port.rsp = some r ∧ 0x00#8 < rspStatus r ∧
      rspStatus r < 0x80#8 :=
  ⟨.facc 0x62#8, full, _, rspWord 0x20#8 .error 0#40, exec_of_next (by decide +kernel), by decide +kernel, by decide,
    by decide⟩

theorem wit_RejectionChangesNothing :
    ∃ (i : Instr) (s t : State) (r : Word), exec i s = .next t ∧ t.port.rsp = some r ∧ 0x80#8 ≤ rspStatus r :=
  ⟨.rdout, fresh 4, _, _, rfl, rfl, by decide⟩

theorem wit_ErrorIsLeftOnlyBySessAndClr :
    ∃ (i : Instr) (s t : State) (r : Word), s.phase = .error ∧ exec i s = .next t ∧ t.port.rsp = some r ∧
      t.phase ≠ .error :=
  ⟨.sess, after [.facc 0x62#8] full, _, rspWord 0x00#8 .idle 0#40, by decide +kernel, exec_of_next (by decide +kernel),
    by decide +kernel, by decide +kernel⟩

/-- A rejection in ERROR: FACC is out of phase there. -/
theorem wit_ErrorIsLeftOnlyBySessAndClr_rejection :
    ∃ (i : Instr) (s t : State) (r : Word), s.phase = .error ∧ exec i s = .next t ∧ t.port.rsp = some r ∧
      0x80#8 ≤ rspStatus r :=
  ⟨.facc 0x62#8, after [.facc 0x62#8] full, _, rspWord 0x82#8 .error 0#40, by decide +kernel,
    exec_of_next (by decide +kernel), by decide +kernel, by decide⟩

theorem wit_OutcapAndIdAreConstant : ∃ s t : State, step s = .next t := ⟨fresh 4, fresh 4, rfl⟩

theorem wit_FreqIsFrozenOutsideIdle :
    ∃ (i : Instr) (s t : State), s.phase ≠ .idle ∧ exec i s = .next t ∧ i ≠ .clr :=
  ⟨.facc 0x61#8, abBuilt 4, _, by decide +kernel, exec_of_next (by decide +kernel), by decide⟩

/-- A part whose CLEN holds something after reset. -/
def junk : State := { fresh 4 with clen := [(0x41, 7#8)] }

theorem wit_UndefinedEntriesAreUnobservable :
    ∃ (i : Instr) (s s' t : State), s.Inv ∧ s'.Inv ∧ s.SameVisible s' ∧ exec i s = .next t ∧ s ≠ s' :=
  ⟨.build, fresh 4, junk, _, inv_fresh, inv_of_check (by decide +kernel),
    ⟨rfl, fun _ _ => rfl, fun h => absurd h (by decide), fun _ _ => rfl⟩, exec_of_next (by decide +kernel), by decide⟩

theorem wit_ClrLooksLikeReset : ∃ s t : State, exec .clr s = .next t := ⟨abCoded 4, _, exec_of_next (by decide +kernel)⟩

theorem wit_StepKeepsTheMemoryForm : ∃ s t : State, s.MemOk ∧ step s = .next t :=
  ⟨fresh 4, fresh 4, inv_fresh.mem, rfl⟩

theorem wit_StepKeepsTheTotal : ∃ s t : State, s.MemOk ∧ s.TotalOk ∧ step s = .next t :=
  ⟨fresh 4, fresh 4, inv_fresh.mem, inv_fresh.total, rfl⟩

theorem wit_StepKeepsTheSessionRegisters :
    ∃ s t : State, (s.PhaseOk ∧ s.SessionOk ∧ s.BoundsOk ∧ s.PackerOk ∧ s.DoneOk ∧ s.WalkOk) ∧ step s = .next t :=
  ⟨fresh 4, fresh 4,
    ⟨inv_fresh.phase, inv_fresh.session, inv_fresh.bounds, inv_fresh.packer, inv_fresh.done, inv_fresh.walk⟩, rfl⟩

theorem next_of_nextIs {o : Host.Outcome State Fault Refusal} {p : State → Bool} (h : nextIs o p = true) :
    ∃ t, o = .next t ∧ p t = true := by
  cases o with
  | next t => exact ⟨t, rfl, h⟩
  | fault f => simp [nextIs] at h
  | refused r => simp [nextIs] at h

/-- A step of substance: the host offers ENCB 'a' in CODED. -/
theorem wit_StepKeepsTheInvariant :
    ∃ s t : State, s.Inv ∧ step s = .next t ∧ s.phase = .coded ∧ t.phase = .encoding := by
  obtain ⟨t, ht, hp⟩ := next_of_nextIs (o := step ((abCoded 4).withOffer 0x4061000000000000#64))
    (p := fun t => t.phase == .encoding) (by decide +kernel)
  exact ⟨_, t, inv_of_check (by decide +kernel), ht, by decide +kernel, by simpa using hp⟩

/-- A step into DONE by ENCF, with bits pending before it. -/
theorem wit_StepKeepsTheInvariant_done :
    ∃ s t : State, s.Inv ∧ step s = .next t ∧ s.accn ≠ 0#3 ∧ t.phase = .done := by
  obtain ⟨t, ht, hp⟩ := next_of_nextIs
    (o := step ((after [.encb 0x61#8] (abCoded 4)).withOffer 0x4100000000000000#64))
    (p := fun t => t.phase == .done) (by decide +kernel)
  exact ⟨_, t, inv_of_check (by decide +kernel), ht, by decide +kernel, by simpa using hp⟩

theorem wit_EveryStepAnswers : ∃ s : State, s.Inv ∧ s.port.host ≠ [] :=
  ⟨doing .rst (abCoded 4), inv_of_check (by decide +kernel), by decide +kernel⟩

end Sys2Proof.Tests
end

namespace Sys2Proof.Machine

variable {s s' t u : State}

/-! ## The step and reset -/

/-- A decodable word that is offered while the response port is free is run at once (R88). -/
theorem step_of_offer {w : Word} {rest : List HostAct} {i : Instr} (hh : s.port.host = .offer w :: rest)
    (hr : s.port.rsp = none) (hd : decode w = .ok i) : step s = exec i (s.withHost rest) := by
  have hready : s.cmdReady = true := by rw [State.cmdReady, hr]; rfl
  unfold step hostStep
  simp only [hh, hready, if_true, handleWord, hd]

/-- Settles O5: an accepted, decodable word is run on the state whose acts no longer hold the offer. -/
theorem stepRunsTheDecodedCommand : Obligations.StepRunsTheDecodedCommand :=
  fun _ _ _ _ hh hr hd => step_of_offer hh hr hd

/-- Every part has room for a byte, whatever the free parameter is (R5). -/
theorem one_le_outbufCap : 1 ≤ Config.outbufCap.toNat := by
  unfold Config.outbufCap
  split
  · decide
  · rename_i hne
    have : Config.outbufCapParam.toNat ≠ 0 := fun h0 => hne (BitVec.eq_of_toNat_eq h0)
    omega

/-- The registers and FREQ right after reset (R53). -/
theorem regsReset_reset : State.reset.RegsReset := by
  unfold State.RegsReset
  exact ⟨rfl, rfl, rfl, rfl, rfl, rfl, rfl, rfl, rfl, rfl, rfl, rfl, rfl, rfl, rfl, rfl, fun _ => rfl⟩

/-- Settles O12: the fields of `State.reset`, and the bound of OUTBUF_CAP. -/
theorem resetValues : Obligations.ResetValues :=
  ⟨regsReset_reset, rfl, one_le_outbufCap, rfl⟩

/-! ## Bit strings and the output buffer -/

@[simp] theorem lowBits_length {w : Nat} (v : BitVec w) (n : Nat) : (lowBits v n).length = n := by
  induction n with
  | zero => rfl
  | succ n ih => rw [lowBits, List.length_cons, ih]

/-- OUTLEN does not wrap where a byte fits. -/
theorem State.outlen_succ (h : s.outlen.toNat < s.outcap.toNat) : (s.outlen + 1#40).toNat = s.outlen.toNat + 1 := by
  have := s.outcap.isLt
  rw [BitVec.toNat_add, BitVec.toNat_ofNat]
  omega

/-- `t` is `s` with bytes appended to OUTBUF: it is canonical, and the bytes outside the new ones are as before. -/
structure State.OutGrows (s t : State) : Prop where
  wf : Memory.wf 0#8 t.outcap.toNat t.outbuf = true
  le : s.outlen.toNat ≤ t.outlen.toNat
  outside : ∀ k, k < s.outlen.toNat ∨ t.outlen.toNat ≤ k →
    Memory.read 0#8 t.outbuf k = Memory.read 0#8 s.outbuf k

theorem State.OutGrows.refl (hwf : Memory.wf 0#8 s.outcap.toNat s.outbuf = true) : s.OutGrows s :=
  ⟨hwf, le_rfl, fun _ _ => rfl⟩

theorem State.OutGrows.trans (h : s.OutGrows t) (h' : t.OutGrows u) : s.OutGrows u where
  wf := h'.wf
  le := h.le.trans h'.le
  outside k hk := by
    have hst := h.le
    have htu := h'.le
    rw [h'.outside k (by omega), h.outside k (by omega)]

/-- A byte that fits is appended, and only its entry changes. -/
theorem State.OutGrows.append {b : Byte} (hwf : Memory.wf 0#8 s.outcap.toNat s.outbuf = true)
    (h : s.outlen.toNat < s.outcap.toNat) (hcap : t.outcap = s.outcap)
    (hbuf : t.outbuf = Memory.write 0#8 s.outbuf s.outlen.toNat b) (hlen : t.outlen = s.outlen + 1#40) :
    s.OutGrows t ∧ t.outBytes = s.outBytes ++ [b] := by
  have hl : t.outlen.toNat = s.outlen.toNat + 1 := hlen ▸ State.outlen_succ h
  have hother : ∀ k, k ≠ s.outlen.toNat → Memory.read 0#8 t.outbuf k = Memory.read 0#8 s.outbuf k := fun k hk => by
    rw [hbuf, Memory.read_write_other hk]
  refine ⟨⟨by rw [hbuf, hcap]; exact Memory.wf_write hwf h, by omega, fun k hk => hother k (by omega)⟩, ?_⟩
  have hold : (List.range s.outlen.toNat).map (Memory.read 0#8 t.outbuf) = s.outBytes :=
    List.map_congr_left fun k hk => hother k (List.mem_range.1 hk).ne
  unfold State.outBytes at hold ⊢
  rw [hl, List.range_succ, List.map_append, hold, List.map_singleton, hbuf, Memory.read_write_same hwf]

theorem bitsOfBytes_append_singleton (bytes : List Byte) (b : Byte) :
    bitsOfBytes (bytes ++ [b]) = bitsOfBytes bytes ++ lowBits b 8 := by
  simp [bitsOfBytes]

/-! ## The bit packer -/

theorem State.accWith_getLsbD_zero (bit : Bool) : (s.accWith bit).getLsbD 0 = bit :=
  BitVec.getLsbD_append.trans (by simp)

theorem State.accWith_getLsbD_succ (bit : Bool) {i : Nat} (hi : i < 7) :
    (s.accWith bit).getLsbD (i + 1) = s.acc.getLsbD i :=
  BitVec.getLsbD_append.trans (by simp [hi])

/-- The bit shifted in stands below the pending bits (R180). -/
theorem lowBits_accWith (bit : Bool) {n : Nat} (hn : n ≤ 7) :
    lowBits (s.accWith bit) (n + 1) = lowBits s.acc n ++ [bit] := by
  induction n with
  | zero => exact congrArg (· :: []) (State.accWith_getLsbD_zero bit)
  | succ n ih => rw [lowBits, State.accWith_getLsbD_succ bit (by omega), ih (by omega)]; rfl

/-- `t` is `s` with the bits `bits` packed (R180, R182). -/
structure State.Packs (s : State) (bits : List Bool) (t : State) : Prop where
  grows : s.OutGrows t
  taken : t.takenBits = s.takenBits ++ bits
  count : 8 * t.outlen.toNat + t.accn.toNat = 8 * s.outlen.toNat + s.accn.toNat + bits.length

theorem State.Packs.refl (hwf : Memory.wf 0#8 s.outcap.toNat s.outbuf = true) : s.Packs [] s :=
  ⟨.refl hwf, (List.append_nil _).symm, rfl⟩

theorem State.Packs.trans {xs ys : List Bool} (h : s.Packs xs t) (h' : t.Packs ys u) : s.Packs (xs ++ ys) u where
  grows := h.grows.trans h'.grows
  taken := by rw [h'.taken, h.taken, List.append_assoc]
  count := by rw [h'.count, h.count, List.length_append, Nat.add_assoc]

/-- One bit packed counts as one, whether it stays pending or completes a byte. -/
theorem State.packBit_count {bit : Bool} (h : s.packBit bit = .ok t) :
    8 * t.outlen.toNat + t.accn.toNat = 8 * s.outlen.toNat + s.accn.toNat + 1 := by
  obtain ⟨hn, rfl⟩ | ⟨hn, hlt, rfl⟩ := State.packBit_ok h
  · have : (s.accn + 1#3).toNat = s.accn.toNat + 1 := by bv_omega
    simp only [this]
    omega
  · simp only [State.outlen_succ hlt, hn]
    simp
    omega

theorem State.packBit_packs {bit : Bool} (hwf : Memory.wf 0#8 s.outcap.toNat s.outbuf = true)
    (h : s.packBit bit = .ok t) : s.Packs [bit] t := by
  have hcount := State.packBit_count h
  obtain ⟨hn, rfl⟩ | ⟨hn, hlt, rfl⟩ := State.packBit_ok h
  · refine ⟨⟨hwf, le_rfl, fun _ _ => rfl⟩, ?_, hcount⟩
    have hs : (s.accn + 1#3).toNat = s.accn.toNat + 1 := by bv_omega
    unfold State.takenBits
    rw [hs, lowBits_accWith bit (by omega), ← List.append_assoc]
    rfl
  · obtain ⟨hgrows, hbytes⟩ := State.OutGrows.append hwf hlt (t := { s with
      outbuf := Memory.write 0#8 s.outbuf s.outlen.toNat (s.accWith bit), outlen := s.outlen + 1#40,
      acc := 0#8, accn := 0#3 }) rfl rfl rfl
    refine ⟨hgrows, ?_, hcount⟩
    unfold State.takenBits
    rw [hbytes, bitsOfBytes_append_singleton, lowBits_accWith bit le_rfl, hn]
    simp [lowBits]

theorem packCode_packs {code : CodeBits} {j : Nat} (hwf : Memory.wf 0#8 s.outcap.toNat s.outbuf = true)
    (h : packCode code j s = .ok t) : s.Packs (lowBits code j) t := by
  induction j generalizing s with
  | zero => cases h; exact .refl hwf
  | succ j ih =>
    rw [packCode] at h
    split at h
    · rename_i u hu
      have hbit := State.packBit_packs hwf hu
      exact hbit.trans (ih hbit.grows.wf h)
    · cases h

/-- A bit is packed unless it completes a byte that does not fit. -/
theorem State.packBit_room (bit : Bool) (h : s.outlen.toNat + (s.accn.toNat + 1) / 8 ≤ s.outcap.toNat) :
    ∃ t, s.packBit bit = .ok t := by
  unfold State.packBit
  split
  · rename_i hn
    have : s.outlen.toNat < s.outcap.toNat := by simp [hn] at h; omega
    exact ⟨_, by rw [State.emit_room this]⟩
  · exact ⟨_, rfl⟩

theorem State.packBit_outcap {bit : Bool} (h : s.packBit bit = .ok t) : t.outcap = s.outcap := by
  rw [State.packBit_frame h]

/-- A code is packed where every byte it completes fits. -/
theorem packCode_room (code : CodeBits) {j : Nat} (h : s.outlen.toNat + (s.accn.toNat + j) / 8 ≤ s.outcap.toNat) :
    ∃ t, packCode code j s = .ok t := by
  induction j generalizing s with
  | zero => exact ⟨s, rfl⟩
  | succ j ih =>
    obtain ⟨u, hu⟩ := State.packBit_room (code.getLsbD j) (s := s) (by omega)
    have hcount := State.packBit_count hu
    have hcap := State.packBit_outcap hu
    rw [packCode, hu]
    exact ih (by rw [hcap]; omega)

/-- Whether a phase is one of the packer's (R89). -/
theorem packerPhase (h : s.phase = .coded ∨ s.phase = .encoding) :
    (s.phase == .coded || s.phase == .encoding) = true := by
  simpa using h

/-- ENCB past its checks answers ENC_BITS (R180). -/
theorem exec_encb_of_packCode {sym : Byte} (hp : s.phase = .coded ∨ s.phase = .encoding) (hlen : s.clenAt sym ≠ 0#8)
    (hbits : s.encBits.toNat + (s.clenAt sym).toNat ≤ Config.maxBits)
    (hu : packCode (s.cbitsAt sym) (s.clenAt sym).toNat s = .ok u) :
    exec (.encb sym) s =
      .next (State.respond
        { u with encBits := BitVec.ofNat 40 (s.encBits.toNat + (s.clenAt sym).toNat), phase := .encoding }
        (BitVec.ofNat 40 (s.encBits.toNat + (s.clenAt sym).toNat))) := by
  have hne : (s.clenAt sym).toNat ≠ 0 := fun h0 => hlen (BitVec.eq_of_toNat_eq h0)
  simp only [exec, execEncb, packerPhase hp, State.command_true, if_neg hne, if_neg (Nat.not_lt.2 hbits), hu,
    State.finish_ok]

/-- Settles O33: the loop packs the code's bits in order (`packCode_packs`), and it ends in a new state where they fit. -/
theorem encbAppendsTheCode : Obligations.EncbAppendsTheCode := by
  intro s sym ⟨_, _, _, _, hwf⟩ hp hlen hbits hroom
  obtain ⟨u, hu⟩ := packCode_room (s.cbitsAt sym) hroom
  obtain ⟨hgrows, htaken, hcount⟩ := packCode_packs hwf hu
  have hframe := packCode_frame hu
  refine ⟨_, exec_encb_of_packCode hp hlen hbits hu, htaken, by simpa using hcount, ?_, rfl, hgrows.outside, ?_, ?_⟩
  · rw [State.respond_encBits, BitVec.toNat_ofNat]
    omega
  · rw [hframe]; rfl
  · rw [hframe]; rfl

/-! ## The session registers -/

/-- What the phases say of the registers (R51 items 2, 3, 5 to 8 and 10), together as every step keeps it. -/
def State.RegsOk (s : State) : Prop :=
  s.PhaseOk ∧ s.SessionOk ∧ s.BoundsOk ∧ s.PackerOk ∧ s.DoneOk ∧ s.WalkOk

/-- The items of `State.RegsOk`, written out for `simp`. -/
theorem State.regsOk_iff : s.RegsOk ↔
    ((s.phase = .idle → s.shape = .none ∧ s.cv = false) ∧ (s.phase = .built → s.cv = false) ∧
      (s.phase = .coded ∨ s.phase = .encoding → s.cv = true) ∧
      (s.phase ≠ .idle → s.phase ≠ .error → s.shape ≠ .none) ∧ (s.cv = true → s.shape ≠ .none)) ∧
    ((s.phase = .idle ∨ s.phase = .built ∨ s.phase = .coded →
        s.encBits = 0#40 ∧ s.acc = 0#8 ∧ s.accn = 0#3 ∧ s.decTarget = 0#40 ∧ s.decConsumed = 0#40 ∧ s.outlen = 0#40 ∧
        s.rdptr = 0#40 ∧ s.errcode = 0x00#8) ∧
      (s.phase = .error ↔ s.errcode ≠ 0x00#8) ∧ (s.phase = .error → s.outlen = 0#40 ∧ s.rdptr = 0#40)) ∧
    (s.rdptr.toNat ≤ s.outlen.toNat ∧ s.outlen.toNat ≤ s.outcap.toNat ∧
      s.decConsumed.toNat ≤ s.decTarget.toNat ∧ 1 ≤ s.outcap.toNat) ∧
    ((s.phase = .coded ∨ s.phase = .encoding → 8 * s.outlen.toNat + s.accn.toNat = s.encBits.toNat) ∧
      s.acc.toNat < 2 ^ s.accn.toNat) ∧
    ((s.phase = .encoding → s.decTarget = 0#40) ∧
      (s.phase = .decoding → s.encBits = 0#40 ∧ s.accn = 0#3 ∧ (s.decTarget = 0#40 → s.outlen = 0#40)) ∧
      (s.phase = .done → s.accn = 0#3 ∧ (s.decTarget = 0#40 → s.outlen.toNat = (s.encBits.toNat + 7) / 8))) ∧
    ((s.phase ≠ .decoding → s.phase ≠ .error → s.walk = s.root) ∧
      (s.phase = .decoding → s.shape ≠ .general → s.walk = s.root)) :=
  Iff.rfl

/-! ### Rejections, responses, fatal errors and the ports -/

theorem State.RegsOk.of_takeRsp (h : s.RegsOk) : s.takeRsp.RegsOk := by
  unfold State.takeRsp
  split <;> exact h

theorem State.RegsOk.of_hwReset (h : s.RegsOk) : s.hwReset.RegsOk := by
  rw [State.regsOk_iff] at h ⊢
  simp [h]

theorem FatalCode.bits_ne_zero (c : FatalCode) : c.bits ≠ 0x00#8 := by
  cases c <;> decide

theorem State.RegsOk.of_raiseFatal (h : s.RegsOk) (c : FatalCode) : (s.raiseFatal c).RegsOk := by
  rw [State.regsOk_iff] at h ⊢
  have := c.bits_ne_zero
  simp_all

/-! ### The ways to a ready phase -/

theorem State.RegsOk.of_clearAll (h : s.RegsOk) : s.clearAll.RegsOk := by
  rw [State.regsOk_iff] at h ⊢
  simp [h]

/-- The ready phase is the one the tables call for (R222). -/
theorem State.RegsOk.of_endSession (h : s.RegsOk) : s.endSession.RegsOk := by
  rw [State.regsOk_iff] at h ⊢
  cases hv : s.cv <;> by_cases hs : s.shape = .none <;> simp_all [State.readyPhase]

theorem Shape.ofLeaves_ne_none (n : Nat) : Shape.ofLeaves n ≠ .none := by
  unfold Shape.ofLeaves
  split <;> simp

/-- BUILD enters BUILT with a shape, and WALK at ROOT. -/
theorem State.RegsOk.of_withTree (h : s.RegsOk) (hp : s.phase = .idle) : s.withTree.RegsOk := by
  rw [State.regsOk_iff] at h ⊢
  have := Shape.ofLeaves_ne_none s.seedLeaves.length
  simp_all

theorem State.RegsOk.of_withCodes (h : s.RegsOk) (hp : s.phase = .built) (codes : List CodeEntry) :
    (s.withCodes codes).RegsOk := by
  rw [State.regsOk_iff] at h ⊢
  simp_all

/-! ### The packer -/

theorem packCode_count {code : CodeBits} {j : Nat} (h : packCode code j s = .ok t) :
    8 * t.outlen.toNat + t.accn.toNat = 8 * s.outlen.toNat + s.accn.toNat + j := by
  induction j generalizing s with
  | zero => cases h; rfl
  | succ j ih =>
    rw [packCode] at h
    split at h
    · rename_i u hu
      rw [ih h, State.packBit_count hu]
      omega
    · cases h

/-- No byte is packed beyond OUTBUF. -/
theorem State.packBit_outlen_le {bit : Bool} (h : s.packBit bit = .ok t) (hcap : s.outlen.toNat ≤ s.outcap.toNat) :
    t.outlen.toNat ≤ t.outcap.toNat := by
  obtain ⟨-, rfl⟩ | ⟨-, hlt, rfl⟩ := State.packBit_ok h
  · exact hcap
  · exact (State.outlen_succ hlt).trans_le hlt

/-- The bits of ACC above ACCN stay 0 (R32). -/
theorem State.packBit_acc_lt {bit : Bool} (h : s.packBit bit = .ok t) (hacc : s.acc.toNat < 2 ^ s.accn.toNat) :
    t.acc.toNat < 2 ^ t.accn.toNat := by
  obtain ⟨hn, rfl⟩ | ⟨-, -, rfl⟩ := State.packBit_ok h
  · have hs : (s.accn + 1#3).toNat = s.accn.toNat + 1 := by bv_omega
    have hw : (s.accWith bit).toNat ≤ 2 * s.acc.toNat + 1 := by
      have hb := (BitVec.ofBool bit).isLt
      rw [State.accWith, BitVec.toNat_append, ← Nat.shiftLeft_add_eq_or_of_lt hb, Nat.shiftLeft_eq,
        BitVec.extractLsb'_toNat]
      omega
    simp only [hs, Nat.pow_succ]
    omega
  · exact Nat.one_pos

theorem packCode_bounds {code : CodeBits} {j : Nat} (h : packCode code j s = .ok t)
    (hcap : s.outlen.toNat ≤ s.outcap.toNat) (hacc : s.acc.toNat < 2 ^ s.accn.toNat) :
    t.outlen.toNat ≤ t.outcap.toNat ∧ t.acc.toNat < 2 ^ t.accn.toNat := by
  induction j generalizing s with
  | zero => cases h; exact ⟨hcap, hacc⟩
  | succ j ih =>
    rw [packCode] at h
    split at h
    · rename_i u hu
      exact ih h (State.packBit_outlen_le hu hcap) (State.packBit_acc_lt hu hacc)
    · cases h

/-- ENCB keeps ENC_BITS the number of bits packed and pending. -/
theorem State.RegsOk.of_packCode {code : CodeBits} {j : Nat} (h : s.RegsOk)
    (hp : s.phase = .coded ∨ s.phase = .encoding) (hb : s.encBits.toNat + j ≤ Config.maxBits)
    (hu : packCode code j s = .ok u) :
    State.RegsOk { u with encBits := BitVec.ofNat 40 (s.encBits.toNat + j), phase := .encoding } := by
  rw [State.regsOk_iff] at h ⊢
  obtain ⟨hphase, ⟨hclear, herr, -⟩, ⟨hrd, hcap, hdec, hone⟩, ⟨hcount, hacc⟩, hdone, hwalk⟩ := h
  obtain ⟨hcap', hacc'⟩ := packCode_bounds hu hcap hacc
  have hcount' := packCode_count hu
  have hrd' : s.rdptr.toNat ≤ u.outlen.toNat := by
    have := u.accn.isLt
    omega
  have hbits : (BitVec.ofNat 40 (s.encBits.toNat + j)).toNat = s.encBits.toNat + j := by
    rw [BitVec.toNat_ofNat, Nat.mod_eq_of_lt (Nat.lt_of_le_of_lt hb (by decide))]
  generalize BitVec.ofNat 40 (s.encBits.toNat + j) = e at hbits ⊢
  rw [packCode_frame hu] at hcap' ⊢
  rcases hp with hp | hp <;> simp_all

/-- ENCF leaves no bit pending and OUTLEN rounded up (R183). -/
theorem State.RegsOk.of_flush (h : s.RegsOk) (hp : s.phase = .coded ∨ s.phase = .encoding) (hu : s.flush = .ok u) :
    State.RegsOk { u with phase := .done } := by
  rw [State.regsOk_iff] at h ⊢
  obtain ⟨hphase, ⟨hclear, herr, -⟩, ⟨hrd, hcap, hdec, hone⟩, ⟨hcount, hacc⟩, hdone, hwalk⟩ := h
  have hcount := hcount hp
  obtain ⟨hn, rfl⟩ | ⟨hn, hlt, rfl⟩ := State.flush_ok hu
  · have : u.outlen.toNat = (u.encBits.toNat + 7) / 8 := by
      simp only [hn, BitVec.toNat_zero] at hcount
      omega
    rcases hp with hp | hp <;> simp_all
  · have hsucc := State.outlen_succ hlt
    have hpos : s.accn.toNat ≠ 0 := fun h0 => hn (BitVec.eq_of_toNat_eq h0)
    have hround : (s.outlen + 1#40).toNat = (s.encBits.toNat + 7) / 8 := by
      have := s.accn.isLt
      omega
    have hrd' : s.rdptr.toNat ≤ (s.outlen + 1#40).toNat := by omega
    have hcap' : (s.outlen + 1#40).toNat ≤ s.outcap.toNat := by omega
    clear hu hsucc
    generalize s.outlen + 1#40 = o at hround hrd' hcap' ⊢
    rcases hp with hp | hp <;> simp_all

/-! ### The unpacker -/

/-- DECS opens a session with no bit consumed. -/
theorem State.RegsOk.of_decs (h : s.RegsOk) (hp : s.phase = .built ∨ s.phase = .coded) (d : BitCount) :
    State.RegsOk { s with decTarget := d, decConsumed := 0#40, walk := s.root, phase := .decoding } := by
  rw [State.regsOk_iff] at h ⊢
  rcases hp with hp | hp <;> simp_all

/-- One bit of a byte: past DEC_TARGET nothing happens; below it, a single leaf repeats its symbol and a general tree is
walked (R201). -/
theorem State.unpackBit_ok {bit : Bool} (h : s.unpackBit bit = .ok t) :
    t = s ∨ (s.decConsumed.toNat < s.decTarget.toNat ∧
      ((s.shape = .single ∧
          State.emit { s with decConsumed := s.decConsumed + 1#40 } (Memory.read Node.blank s.node 0).sym = .ok t) ∨
        (s.shape ≠ .single ∧ State.walkBit { s with decConsumed := s.decConsumed + 1#40 } bit = .ok t))) := by
  unfold State.unpackBit at h
  split at h
  · refine .inr ⟨‹_›, ?_⟩
    dsimp only at h
    split at h
    · exact .inl ⟨‹_›, h⟩
    · exact .inr ⟨‹_›, h⟩
  · cases h; exact .inl rfl

/-- A consumed bit keeps the registers' rules, with or without a byte put out, while only a general tree's walk moves. -/
theorem State.RegsOk.of_consumed (h : s.RegsOk) (hp : s.phase = .decoding)
    (hlt : s.decConsumed.toNat < s.decTarget.toNat) (hfr : t = { s with
      decConsumed := s.decConsumed + 1#40, walk := t.walk, outbuf := t.outbuf, outlen := t.outlen })
    (hlen : t.outlen = s.outlen ∨ (s.outlen.toNat < s.outcap.toNat ∧ t.outlen = s.outlen + 1#40))
    (hwalk : s.shape ≠ .general → t.walk = s.walk) : t.RegsOk := by
  have htarget : s.decTarget ≠ 0#40 := fun h0 => by simp [h0] at hlt
  have hcons : (s.decConsumed + 1#40).toNat ≤ s.decTarget.toNat := by bv_omega
  have hout : s.outlen.toNat ≤ t.outlen.toNat ∧ (s.outlen.toNat ≤ s.outcap.toNat → t.outlen.toNat ≤ s.outcap.toNat) := by
    rcases hlen with hl | ⟨hroom, hl⟩ <;> rw [hl]
    · exact ⟨le_rfl, id⟩
    · rw [State.outlen_succ hroom]
      exact ⟨by omega, fun _ => hroom⟩
  rw [hfr, State.regsOk_iff]
  clear hfr
  rw [State.regsOk_iff] at h
  obtain ⟨hphase, ⟨-, herr, -⟩, ⟨hrd, hcap, -, hone⟩, ⟨-, hacc⟩, hdone, hroot⟩ := h
  have hrd' := hrd.trans hout.1
  have hcap' := hout.2 hcap
  clear hlen hout
  simp_all

theorem State.RegsOk.of_unpackBit {bit : Bool} (h : s.RegsOk) (hp : s.phase = .decoding) (ha : s.shape ≠ .absent)
    (hu : s.unpackBit bit = .ok t) : t.RegsOk := by
  obtain rfl | ⟨hlt, ⟨-, he⟩ | ⟨hs, hw⟩⟩ := State.unpackBit_ok hu
  · exact h
  · obtain ⟨hroom, rfl⟩ := State.emit_ok he
    exact h.of_consumed hp hlt rfl (.inr ⟨hroom, rfl⟩) fun _ => rfl
  · have hn : s.shape ≠ .none := h.1.2.2.2.1 (by simp [hp]) (by simp [hp])
    have hg : s.shape = .general := by cases hsh : s.shape <;> simp_all
    obtain ⟨here, nxt, -, -, ⟨-, rfl⟩ | ⟨-, hroom, rfl⟩⟩ := State.walkBit_ok hw
    · exact h.of_consumed hp hlt rfl (.inl rfl) fun hne => absurd hg hne
    · exact h.of_consumed hp hlt rfl (.inr ⟨hroom, rfl⟩) fun hne => absurd hg hne

theorem State.RegsOk.of_unpackByte {b : Byte} {i : Nat} (h : s.RegsOk) (hp : s.phase = .decoding)
    (ha : s.shape ≠ .absent) (hu : unpackByte b i s = .ok t) : t.RegsOk := by
  induction i generalizing s with
  | zero => cases hu; exact h
  | succ i ih =>
    rw [unpackByte] at hu
    split at hu
    · rename_i u hbit
      have hfr := State.unpackBit_frame hbit
      exact ih (h.of_unpackBit hp ha hbit) (by rw [hfr]; exact hp) (by rw [hfr]; exact ha) hu
    · cases hu

/-- DECF ends a session whose walk stands at ROOT. -/
theorem State.RegsOk.of_decf (h : s.RegsOk) (hp : s.phase = .decoding)
    (hw : ¬(s.shape = .general ∧ s.walk ≠ s.root)) : State.RegsOk { s with phase := .done } := by
  rw [State.regsOk_iff] at h ⊢
  obtain ⟨hphase, ⟨-, herr, -⟩, hbounds, ⟨-, hacc⟩, ⟨-, hdec, -⟩, ⟨-, hroot⟩⟩ := h
  have hwalk : s.walk = s.root := by
    by_cases hg : s.shape = .general
    · exact not_not.1 fun hne => hw ⟨hg, hne⟩
    · exact hroot hp hg
  obtain ⟨hbits, hn, hout⟩ := hdec hp
  have hround : s.decTarget = 0#40 → s.outlen.toNat = (s.encBits.toNat + 7) / 8 := fun h0 => by
    rw [hout h0, hbits]
    rfl
  simp_all

/-! ### Reading the output -/

theorem State.RegsOk.of_rdout (h : s.RegsOk) (hp : s.phase = .done) (hr : s.rdptr ≠ s.outlen) :
    State.RegsOk { s with rdptr := s.rdptr + 1#40 } := by
  rw [State.regsOk_iff] at h ⊢
  obtain ⟨hphase, ⟨-, herr, -⟩, ⟨hrd, hcap, hdec, hone⟩, ⟨-, hacc⟩, hdone, hwalk⟩ := h
  have hlt : (s.rdptr + 1#40).toNat ≤ s.outlen.toNat := by bv_omega
  generalize s.rdptr + 1#40 = r at hlt ⊢
  simp_all

/-! ### Every step -/

/-- Every command that ends in `respond` keeps the registers' rules. -/
theorem Effect.keeps_regsOk {i : Instr} (he : Effect i s u) (h : s.RegsOk) : u.RegsOk := by
  cases he with
  | nop | rdreg | rdfreq | rdnode | rdcode | decbAbsent => exact h
  | facc | fset => exact h
  | clr => exact h.of_clearAll
  | sess => exact h.of_endSession
  | build _ hp => exact h.of_withTree hp
  | genc _ codes hp _ => exact h.of_withCodes hp codes
  | encb _ _ _ hp _ hb hu => exact h.of_packCode hp hb hu
  | encf _ _ hp hu => exact h.of_flush hp hu
  | decs _ d hp => exact h.of_decs hp d
  | decb _ _ _ hp ha hu => exact h.of_unpackByte hp ha hu
  | decfAbsent _ hp ha => exact h.of_decf hp (by simp [ha])
  | decf _ hp _ _ hw => exact h.of_decf hp hw
  | rdout _ hp hr => exact h.of_rdout hp hr

theorem exec_keeps_regsOk {i : Instr} (hx : exec i s = .next t) (h : s.RegsOk) : t.RegsOk := by
  obtain ⟨u, d, he, rfl⟩ | ⟨c, rfl⟩ | ⟨c, -, rfl⟩ := exec_next_cases hx
  · exact he.keeps_regsOk h
  · exact h
  · exact h.of_raiseFatal c

/-- Settles O58: each act of the host and each command's effect keeps the registers' rules. -/
theorem stepKeepsTheSessionRegisters : Obligations.StepKeepsTheSessionRegisters := by
  intro s t h hstep
  change s.RegsOk at h
  change t.RegsOk
  obtain ⟨-, rfl⟩ | ⟨rest, ⟨-, rfl⟩ | ⟨-, rfl⟩ | ⟨w, -, ⟨-, rfl⟩ | ⟨-, hrun⟩⟩⟩ := step_next_cases hstep
  · exact h
  · exact State.RegsOk.of_hwReset (s := s.withHost rest) h
  · exact State.RegsOk.of_takeRsp (s := s.withHost rest) h
  · exact h
  · obtain ⟨-, rfl⟩ | ⟨-, rfl⟩ | ⟨i, -, hx⟩ := hrun
    · exact h
    · exact h
    · exact exec_keeps_regsOk hx h

/-! ## The arena of BUILD -/

/-! ### Writing the arena to NODE -/

theorem read_writeArena_below {ns : List Node} {m : List (Nat × Node)} {i k : Nat} (hk : k < i) :
    Memory.read Node.blank (writeArena m i ns) k = Memory.read Node.blank m k := by
  induction ns generalizing m i with
  | nil => rfl
  | cons n ns ih => rw [writeArena, ih (by omega), Memory.read_write_other (by omega)]

/-- The entries written read back as the arena's. -/
theorem getElem?_of_writeArena {ns : List Node} {m : List (Nat × Node)} {size i k : Nat}
    (hwf : Memory.wf Node.blank size m = true) (hsize : i + ns.length ≤ size) (hk : k < ns.length) :
    ns[k]? = some (Memory.read Node.blank (writeArena m i ns) (i + k)) := by
  induction ns generalizing m i k with
  | nil => cases hk
  | cons n ns ih =>
    rw [List.length_cons] at hsize hk
    cases k with
    | zero =>
      rw [Nat.add_zero, writeArena, read_writeArena_below (Nat.lt_add_one i), Memory.read_write_same hwf,
        List.getElem?_cons_zero]
    | succ k =>
      have hwf' : Memory.wf Node.blank size (Memory.write Node.blank m i n) = true := Memory.wf_write hwf (by omega)
      rw [List.getElem?_cons_succ, writeArena, ih (i := i + 1) hwf' (by omega) (by omega), Nat.succ_add_eq_add_succ]

/-! ### The priority collection -/

theorem takeLeast_eq_none {q : List QItem} (h : takeLeast q = none) : q = [] := by
  cases q with
  | nil => rfl
  | cons x q =>
    rw [takeLeast] at h
    split at h
    · cases h
    · split at h <;> cases h

/-- Taking the least element takes one element and leaves the others. -/
theorem perm_of_takeLeast {q rest : List QItem} {x : QItem} (h : takeLeast q = some (x, rest)) :
    q.Perm (x :: rest) := by
  induction q generalizing x rest with
  | nil => cases h
  | cons y q ih =>
    rw [takeLeast] at h
    split at h
    · rename_i hq
      cases h
      rw [takeLeast_eq_none hq]
    · rename_i z rest' hq
      split at h
      · cases h
        exact (ih hq).cons y
      · cases h
        exact ((ih hq).cons y).trans (.swap _ y rest')

/-! ### Trees in an arena -/

/-- The tree under entry `i` of the arena stands in it whole, and no path in it has `fuel` edges or more. -/
def Fits (arena : List Node) : (fuel : Nat) → (i : Nat) → Prop
  | 0, _ => False
  | fuel + 1, i => ∃ n, arena[i]? = some n ∧
      (n.leaf = true ∨ (Fits arena fuel n.left.toNat ∧ Fits arena fuel n.right.toNat))

theorem Fits.lt_length {arena : List Node} {f i : Nat} (h : Fits arena f i) : i < arena.length := by
  cases f with
  | zero => cases h
  | succ f =>
    obtain ⟨n, hn, -⟩ := h
    exact (List.getElem?_eq_some_iff.1 hn).1

theorem Fits.pos {arena : List Node} {f i : Nat} (h : Fits arena f i) : 0 < f := by
  cases f with
  | zero => cases h
  | succ f => exact Nat.succ_pos f

theorem Fits.mono {arena : List Node} {f g i : Nat} (h : Fits arena f i) (hfg : f ≤ g) : Fits arena g i := by
  induction f generalizing g i with
  | zero => cases h
  | succ f ih =>
    obtain ⟨g, rfl⟩ := Nat.exists_eq_add_of_le' (Nat.succ_le_of_lt (Nat.lt_of_lt_of_le (Nat.succ_pos f) hfg))
    obtain ⟨n, hn, hleaf | ⟨hl, hr⟩⟩ := h
    · exact ⟨n, hn, .inl hleaf⟩
    · exact ⟨n, hn, .inr ⟨ih hl (by omega), ih hr (by omega)⟩⟩

theorem Fits.append {arena : List Node} {f i : Nat} (h : Fits arena f i) (ns : List Node) : Fits (arena ++ ns) f i := by
  induction f generalizing i with
  | zero => cases h
  | succ f ih =>
    have hlt := h.lt_length
    obtain ⟨n, hn, hsub⟩ := h
    refine ⟨n, by rw [List.getElem?_append_left hlt, hn], ?_⟩
    exact hsub.imp id fun ⟨hl, hr⟩ => ⟨ih hl, ih hr⟩

/-! ### The merges -/

/-- What every merge keeps, for `n` leaves: how many nodes there are; that the last one made is in the collection; that
the trees under the collection's nodes stand in the arena, with fuels that sum to `n`, so that no path in them has `n`
edges; and that every child stands in the arena. -/
structure ArenaOk (n : Nat) (q : List QItem) (arena : List Node) : Prop where
  count : arena.length + q.length = 2 * n
  last : ∃ x ∈ q, x.index + 1 = arena.length
  fits : ∃ fs : List Nat, List.Forall₂ (fun x f => Fits arena f x.index) q fs ∧ fs.sum = n
  closed : ∀ nd ∈ arena, nd.left.toNat < arena.length ∧ nd.right.toNat < arena.length

theorem ArenaOk.perm {n : Nat} {q q' : List QItem} {arena : List Node} (h : ArenaOk n q arena) (hp : q.Perm q') :
    ArenaOk n q' arena := by
  obtain ⟨hcount, ⟨x, hx, hlast⟩, ⟨fs, hfits, hsum⟩, hclosed⟩ := h
  obtain ⟨fs', hfits', hp'⟩ := List.perm_comp_forall₂ hp.symm hfits
  exact ⟨hp.length_eq ▸ hcount, ⟨x, hp.mem_iff.1 hx, hlast⟩, ⟨fs', hfits', hp'.sum_eq.trans hsum⟩, hclosed⟩

/-- One merge: the new node fits where both children do. -/
theorem ArenaOk.merge {n : Nat} {a b : QItem} {q : List QItem} {arena : List Node} (h : ArenaOk n (a :: b :: q) arena)
    (hn : n ≤ Config.alphabet) (w : Count) :
    ArenaOk n ({ weight := w, index := arena.length } :: q)
      (arena ++ [Node.ofChildren w (BitVec.ofNat 9 a.index) (BitVec.ofNat 9 b.index)]) := by
  obtain ⟨hcount, -, ⟨fs, hfits, hsum⟩, hclosed⟩ := h
  rw [List.forall₂_cons_left_iff] at hfits
  obtain ⟨fa, fs, ha, hfits, rfl⟩ := hfits
  rw [List.forall₂_cons_left_iff] at hfits
  obtain ⟨fb, fs, hb, hfits, rfl⟩ := hfits
  have hla := ha.lt_length
  have hlb := hb.lt_length
  have hfa := ha.pos
  have hfb := hb.pos
  rw [List.length_cons, List.length_cons] at hcount
  have hcap : arena.length < 512 := by
    have : n ≤ 256 := hn
    omega
  have hia : (BitVec.ofNat 9 a.index).toNat = a.index := by
    rw [BitVec.toNat_ofNat, Nat.mod_eq_of_lt (by omega)]
  have hib : (BitVec.ofNat 9 b.index).toNat = b.index := by
    rw [BitVec.toNat_ofNat, Nat.mod_eq_of_lt (by omega)]
  have hnew : Fits (arena ++ [Node.ofChildren w (BitVec.ofNat 9 a.index) (BitVec.ofNat 9 b.index)]) (fa + fb)
      arena.length := by
    obtain ⟨f, hf⟩ : ∃ f, fa + fb = f + 1 := ⟨fa + fb - 1, by omega⟩
    rw [hf]
    refine ⟨_, by rw [List.getElem?_concat_length], .inr ⟨?_, ?_⟩⟩
    · exact (hia.symm ▸ ha.mono (by omega) : Fits arena f (BitVec.ofNat 9 a.index).toNat).append _
    · exact (hib.symm ▸ hb.mono (by omega) : Fits arena f (BitVec.ofNat 9 b.index).toNat).append _
  refine ⟨?_, ⟨_, List.mem_cons_self, by simp⟩, ⟨(fa + fb) :: fs, .cons hnew ?_, ?_⟩, ?_⟩
  · simp only [List.length_append, List.length_cons, List.length_nil]
    omega
  · exact hfits.imp fun x f hx => hx.append _
  · simpa [Nat.add_assoc] using hsum
  · intro nd hnd
    rw [List.length_append, List.length_singleton]
    rcases List.mem_append.1 hnd with hold | hmem
    · obtain ⟨hl, hr⟩ := hclosed nd hold
      exact ⟨by omega, by omega⟩
    · rw [List.mem_singleton.1 hmem]
      exact ⟨show (BitVec.ofNat 9 a.index).toNat < _ by omega, show (BitVec.ofNat 9 b.index).toNat < _ by omega⟩

theorem mergeAll_arenaOk {n k : Nat} {q : List QItem} {arena : List Node} (h : ArenaOk n q arena)
    (hn : n ≤ Config.alphabet) : ∃ q', ArenaOk n q' (mergeAll k q arena) := by
  induction k generalizing q arena with
  | zero => exact ⟨q, h⟩
  | succ k ih =>
    rw [mergeAll]
    split
    · exact ⟨q, h⟩
    · rename_i a q₁ hq
      split
      · exact ⟨q, h⟩
      · rename_i b q₂ hq₁
        exact ih ((h.perm ((perm_of_takeLeast hq).trans ((perm_of_takeLeast hq₁).cons a))).merge hn _)

/-! ### The seeded collection -/

theorem State.seedLeaves_length_le (s : State) : s.seedLeaves.length ≤ Config.alphabet :=
  (List.length_filterMap_le _ _).trans_eq List.length_range

/-- Every seeded node is a leaf (R144). -/
theorem State.eq_ofLeaf_of_mem_seedLeaves {nd : Node} (h : nd ∈ s.seedLeaves) : ∃ sym w, nd = Node.ofLeaf sym w := by
  obtain ⟨k, -, hk⟩ := List.mem_filterMap.1 h
  dsimp only at hk
  split at hk
  · cases hk
  · exact ⟨_, _, (Option.some.inj hk).symm⟩

@[simp] theorem seedQueue_length (leaves : List Node) : (seedQueue leaves).length = leaves.length := by
  simp [seedQueue]

theorem seedQueue_getElem {leaves : List Node} {k : Nat} (hk : k < (seedQueue leaves).length) :
    ((seedQueue leaves)[k]).index = k := by
  simp [seedQueue]

/-- The seeded leaves are trees of one node each. -/
theorem State.seed_arenaOk (hne : s.seedLeaves ≠ []) :
    ArenaOk s.seedLeaves.length (seedQueue s.seedLeaves) s.seedLeaves := by
  have hpos := List.length_pos_iff.2 hne
  refine ⟨by simp; omega, ?_, ⟨List.replicate s.seedLeaves.length 1, ?_, by simp⟩, ?_⟩
  · have hlt : s.seedLeaves.length - 1 < (seedQueue s.seedLeaves).length := by simpa using hpos
    exact ⟨_, List.getElem_mem hlt, by rw [seedQueue_getElem]; omega⟩
  · rw [List.forall₂_iff_get]
    refine ⟨by simp, fun k hk hk' => ?_⟩
    rw [seedQueue_length] at hk
    obtain ⟨sym, w, hleaf⟩ := State.eq_ofLeaf_of_mem_seedLeaves (List.getElem_mem hk)
    have hidx : ((seedQueue s.seedLeaves).get ⟨k, by simpa using hk⟩).index = k := seedQueue_getElem _
    rw [hidx]
    simp only [List.get_eq_getElem, List.getElem_replicate]
    exact ⟨_, List.getElem?_eq_getElem hk, .inl (by rw [hleaf]; rfl)⟩
  · intro nd hnd
    obtain ⟨sym, w, rfl⟩ := State.eq_ofLeaf_of_mem_seedLeaves hnd
    exact ⟨hpos, hpos⟩

/-! ### The finished arena -/

theorem State.treeArena_of_nil (h : s.seedLeaves = []) : s.treeArena = [] := by
  rw [State.treeArena, h]
  rfl

theorem State.treeArena_arenaOk (hne : s.seedLeaves ≠ []) : ∃ q, ArenaOk s.seedLeaves.length q s.treeArena :=
  mergeAll_arenaOk (State.seed_arenaOk hne) s.seedLeaves_length_le

/-- The arena holds every tree of BUILD (R29, R47). -/
theorem State.treeArena_length_le (s : State) : s.treeArena.length ≤ Config.nodeCap := by
  by_cases hne : s.seedLeaves = []
  · rw [State.treeArena_of_nil hne]
    exact Nat.zero_le _
  · obtain ⟨q, hcount, ⟨x, hx, -⟩, -, -⟩ := State.treeArena_arenaOk hne
    have hq := List.length_pos_of_mem hx
    have hle := s.seedLeaves_length_le
    simp only [Config.alphabet, Config.nodeCap] at hle ⊢
    omega

/-- A child stands in the arena. -/
theorem State.treeArena_closed {nd : Node} (h : nd ∈ s.treeArena) (bit : Bool) :
    (nd.child bit).toNat < s.treeArena.length := by
  have hne : s.seedLeaves ≠ [] := fun h0 => by
    rw [State.treeArena_of_nil h0] at h
    cases h
  obtain ⟨q, -, -, -, hclosed⟩ := State.treeArena_arenaOk hne
  obtain ⟨hl, hr⟩ := hclosed nd h
  cases bit
  · exact hl
  · exact hr

/-- No path from the root of BUILD's tree has more than MAXLEN edges (R146 item 4, R163 item 2). -/
theorem State.treeArena_fits (hne : s.seedLeaves ≠ []) :
    Fits s.treeArena (Config.maxLen + 1) (s.treeArena.length - 1) := by
  obtain ⟨q, hok⟩ := State.treeArena_arenaOk hne
  obtain ⟨x, hx, hlast⟩ := hok.last
  obtain ⟨fs, hfits, hsum⟩ := (hok.perm (List.perm_cons_erase hx)).fits
  obtain ⟨f, fs, hf, -, rfl⟩ := List.forall₂_cons_left_iff.1 hfits
  have hle : f ≤ Config.maxLen + 1 := by
    have : s.seedLeaves.length ≤ 256 := s.seedLeaves_length_le
    rw [List.sum_cons] at hsum
    simp only [Config.maxLen]
    omega
  rw [← hlast, Nat.add_sub_cancel]
  exact hf.mono hle

/-! ## BUILD and FREQ -/

theorem State.withTree_nnodes_toNat : s.withTree.nnodes.toNat = s.treeArena.length := by
  have : s.treeArena.length ≤ 511 := s.treeArena_length_le
  rw [State.withTree_nnodes, BitVec.toNat_ofNat, Nat.mod_eq_of_lt (by omega)]

/-- BUILD leaves its arena in NODE. -/
theorem State.treeArena_getElem?_eq_withTree (hwf : Memory.wf Node.blank Config.nodeCap s.node = true) {k : Nat}
    (hk : k < s.withTree.nnodes.toNat) : s.treeArena[k]? = some (s.withTree.nodeEntry k) := by
  rw [State.withTree_nnodes_toNat] at hk
  have hread := getElem?_of_writeArena (i := 0) hwf (by rw [Nat.zero_add]; exact s.treeArena_length_le) hk
  rwa [Nat.zero_add] at hread

/-- The leaves, and with them the whole arena, are made from the counts alone. -/
theorem State.seedLeaves_congr (h : ∀ sym, s.freqAt sym = t.freqAt sym) : s.seedLeaves = t.seedLeaves := by
  unfold State.seedLeaves
  simp only [h]

theorem State.treeArena_congr (h : ∀ sym, s.freqAt sym = t.freqAt sym) : s.treeArena = t.treeArena := by
  rw [State.treeArena, State.treeArena, State.seedLeaves_congr h]

theorem exec_build_idle (h : s.phase = .idle) :
    exec .build s = .next (s.withTree.respond (s.withTree.nleaves.setWidth 40)) := by
  simp only [exec, execBuild, h, beq_self_eq_true, State.command_true, State.finish_ok]

/-- Settles O26: the registers of the tree are functions of the leaves and the arena, and NODE holds the arena. -/
theorem sameFreqGivesTheSameTree : Obligations.SameFreqGivesTheSameTree := by
  intro s s' t t' ⟨_, hwf, _⟩ ⟨_, hwf', _⟩ hfreq hp hp' hx hx'
  rw [exec_build_idle hp] at hx
  rw [exec_build_idle hp'] at hx'
  cases hx
  cases hx'
  have hleaves := State.seedLeaves_congr hfreq
  have harena := State.treeArena_congr hfreq
  refine ⟨?_, ?_, ?_, ?_, fun k hk => ?_⟩
  · simp only [State.respond_shape, State.withTree_shape, hleaves]
  · simp only [State.respond_nleaves, State.withTree_nleaves, hleaves]
  · simp only [State.respond_nnodes, State.withTree_nnodes, harena]
  · simp only [State.respond_root, State.withTree_root, harena]
  · rw [State.respond_nnodes] at hk
    have hk' : k < s'.withTree.nnodes.toNat := by
      rwa [State.withTree_nnodes_toNat, ← harena, ← State.withTree_nnodes_toNat]
    have hs := State.treeArena_getElem?_eq_withTree hwf hk
    rw [harena, State.treeArena_getElem?_eq_withTree hwf' hk'] at hs
    exact (Option.some.inj hs).symm

/-! ## The tree in NODE -/

theorem State.nodeAt_of_lt {i : NodeIdx} (h : i.toNat < Config.nodeCap) : s.nodeAt i = some (s.nodeEntry i.toNat) :=
  if_pos h

/-- NNODES counts the arena's nodes, or none (R29). -/
theorem State.TreeOk.nnodes_le (h : s.TreeOk) : s.nnodes.toNat ≤ Config.nodeCap := by
  by_cases hs : s.shape = .none
  · rw [(h.1 hs).2.1]
    exact Nat.zero_le _
  · rw [(h.2 hs).2.2.1]
    exact s.treeArena_length_le

theorem State.TreeOk.nodeAt (h : s.TreeOk) {i : NodeIdx} (hi : i.toNat < s.nnodes.toNat) :
    s.nodeAt i = some (s.nodeEntry i.toNat) :=
  State.nodeAt_of_lt (hi.trans_le h.nnodes_le)

/-- The valid entries of NODE are the arena's. -/
theorem State.TreeOk.getElem? (h : s.TreeOk) {k : Nat} (hk : k < s.nnodes.toNat) :
    s.treeArena[k]? = some (s.nodeEntry k) := by
  have hs : s.shape ≠ .none := fun hs => by
    rw [(h.1 hs).2.1] at hk
    exact Nat.not_lt_zero k hk
  obtain ⟨-, -, hn, -, hall⟩ := h.2 hs
  exact hall k (hn ▸ hk)

/-- A child of a valid entry is a valid entry. -/
theorem State.TreeOk.child_lt (h : s.TreeOk) {k : Nat} (hk : k < s.nnodes.toNat) (bit : Bool) :
    ((s.nodeEntry k).child bit).toNat < s.nnodes.toNat := by
  have hs : s.shape ≠ .none := fun hs => by
    rw [(h.1 hs).2.1] at hk
    exact Nat.not_lt_zero k hk
  rw [(h.2 hs).2.2.1]
  exact State.treeArena_closed (List.mem_of_getElem? (h.getElem? hk)) bit

/-- A tree that is not absent has leaves. -/
theorem State.TreeOk.seedLeaves_ne_nil (h : s.TreeOk) (hn : s.shape ≠ .none) (ha : s.shape ≠ .absent) :
    s.seedLeaves ≠ [] := fun h0 => ha (by rw [(h.2 hn).1, h0]; rfl)

/-- Below ROOT no path is longer than MAXLEN. -/
theorem State.TreeOk.root_fits (h : s.TreeOk) (hn : s.shape ≠ .none) (ha : s.shape ≠ .absent) :
    Fits s.treeArena (Config.maxLen + 1) s.root.toNat := by
  rw [(h.2 hn).2.2.2.1]
  exact State.treeArena_fits (h.seedLeaves_ne_nil hn ha)

theorem State.TreeOk.lt_of_fits (h : s.TreeOk) (hn : s.shape ≠ .none) {f i : Nat} (hf : Fits s.treeArena f i) :
    i < s.nnodes.toNat := by
  rw [(h.2 hn).2.2.1]
  exact hf.lt_length

/-- ROOT is a valid entry (R30). -/
theorem State.TreeOk.root_lt (h : s.TreeOk) (hn : s.shape ≠ .none) (ha : s.shape ≠ .absent) :
    s.root.toNat < s.nnodes.toNat :=
  h.lt_of_fits hn (h.root_fits hn ha)

/-! ## No command stops -/

/-- GENC's walk ends where the tree fits its fuel (R160). -/
theorem State.TreeOk.visit_ok (h : s.TreeOk) (hs : s.shape ≠ .none) {f : Nat} {i : NodeIdx}
    (hf : Fits s.treeArena f i.toNat) (len val : Nat) : ∃ codes, s.visit f i len val = .ok codes := by
  induction f generalizing i len val with
  | zero => cases hf
  | succ f ih =>
    have hi := h.lt_of_fits hs hf
    obtain ⟨n, hn, hsub⟩ := hf
    rw [h.getElem? hi] at hn
    cases hn
    simp only [State.visit, h.nodeAt hi]
    split
    · exact ⟨_, rfl⟩
    · rename_i hleaf
      obtain ⟨hl, hr⟩ := hsub.resolve_left hleaf
      obtain ⟨ls, hls⟩ := ih hl (len + 1) (2 * val)
      obtain ⟨rs, hrs⟩ := ih hr (len + 1) (2 * val + 1)
      exact ⟨ls ++ rs, by rw [hls, hrs]⟩

/-- Every tree of BUILD has its codes. -/
theorem State.TreeOk.treeCodes_ok (h : s.TreeOk) : ∃ codes, s.treeCodes = .ok codes := by
  unfold State.treeCodes
  cases hs : s.shape with
  | none => exact ⟨_, rfl⟩
  | absent => exact ⟨_, rfl⟩
  | single => exact ⟨_, rfl⟩
  | general => exact h.visit_ok (by rw [hs]; decide) (h.root_fits (by rw [hs]; decide) (by rw [hs]; decide)) 0 0

/-- Below OUTBUF_CAP `emit` ends early only on a full buffer. -/
theorem State.emit_error_of_le {b : Byte} {e : Halt} (hle : s.outlen.toNat ≤ s.outcap.toNat) (h : s.emit b = .error e) :
    e = .fatal .outOvf := by
  obtain ⟨he, -⟩ | ⟨-, hlt⟩ := State.emit_error h
  · exact he
  · omega

theorem State.packBit_error {bit : Bool} {e : Halt} (hle : s.outlen.toNat ≤ s.outcap.toNat)
    (h : s.packBit bit = .error e) : e = .fatal .outOvf := by
  unfold State.packBit at h
  split at h
  · split at h
    · cases h
    · rename_i he
      cases h
      exact State.emit_error_of_le hle he
  · cases h

theorem packCode_error {code : CodeBits} {j : Nat} {e : Halt} (hle : s.outlen.toNat ≤ s.outcap.toNat)
    (h : packCode code j s = .error e) : e = .fatal .outOvf := by
  induction j generalizing s with
  | zero => cases h
  | succ j ih =>
    rw [packCode] at h
    split at h
    · rename_i u hu
      exact ih (State.packBit_outlen_le hu hle) h
    · rename_i he
      cases h
      exact State.packBit_error hle he

theorem State.flush_error {e : Halt} (hle : s.outlen.toNat ≤ s.outcap.toNat) (h : s.flush = .error e) :
    e = .fatal .outOvf := by
  unfold State.flush at h
  split at h
  · cases h
  · split at h
    · cases h
    · rename_i he
      cases h
      exact State.emit_error_of_le hle he

/-- What keeps the unpacker from a fault: OUTLEN within OUTBUF, the tree in NODE, and ROOT and WALK in it. -/
structure State.UnpackSafe (s : State) : Prop where
  tree : s.TreeOk
  room : s.outlen.toNat ≤ s.outcap.toNat
  root : s.root.toNat < s.nnodes.toNat
  walk : s.walk.toNat < s.nnodes.toNat

/-- A decode session that is not of an absent tree is safe. -/
theorem State.Inv.unpackSafe (h : s.Inv) (hp : s.phase = .decoding) (ha : s.shape ≠ .absent) : s.UnpackSafe := by
  have hn : s.shape ≠ .none := h.phase.2.2.2.1 (by simp [hp]) (by simp [hp])
  have hroot := h.tree.root_lt hn ha
  refine ⟨h.tree, h.bounds.2.1, hroot, ?_⟩
  by_cases hg : s.shape = .general
  · exact (h.walkInTree hg).1
  · rw [h.walk.2 hp hg]
    exact hroot

theorem State.walkBit_error {bit : Bool} {e : Halt} (htree : s.TreeOk) (hle : s.outlen.toNat ≤ s.outcap.toNat)
    (hw : s.walk.toNat < s.nnodes.toNat) (h : s.walkBit bit = .error e) : e = .fatal .outOvf := by
  unfold State.walkBit at h
  simp only [htree.nodeAt hw, htree.nodeAt (htree.child_lt hw bit)] at h
  split at h
  · split at h
    · cases h
    · rename_i he
      cases h
      exact State.emit_error_of_le hle he
  · cases h

theorem State.UnpackSafe.unpackBit_error {bit : Bool} {e : Halt} (hs : s.UnpackSafe) (h : s.unpackBit bit = .error e) :
    e = .fatal .outOvf := by
  unfold State.unpackBit at h
  split at h
  · dsimp only at h
    split at h
    · exact State.emit_error_of_le (s := { s with decConsumed := s.decConsumed + 1#40 }) hs.room h
    · exact State.walkBit_error (s := { s with decConsumed := s.decConsumed + 1#40 }) hs.tree hs.room hs.walk h
  · cases h

/-- An unpacked bit leaves the unpacker safe: the walk goes to a child or back to ROOT. -/
theorem State.UnpackSafe.of_unpackBit {bit : Bool} (hs : s.UnpackSafe) (h : s.unpackBit bit = .ok t) : t.UnpackSafe := by
  obtain rfl | ⟨-, ⟨-, he⟩ | ⟨-, hw⟩⟩ := State.unpackBit_ok h
  · exact hs
  · obtain ⟨hlt, rfl⟩ := State.emit_ok he
    exact ⟨hs.tree, (State.outlen_succ hlt).trans_le hlt, hs.root, hs.walk⟩
  · obtain ⟨here, nxt, hhere, -, ⟨-, rfl⟩ | ⟨-, hlt, rfl⟩⟩ := State.walkBit_ok hw
    · have heq : here = s.nodeEntry s.walk.toNat := Option.some.inj (hhere.symm.trans (hs.tree.nodeAt hs.walk))
      exact ⟨hs.tree, hs.room, hs.root, heq ▸ hs.tree.child_lt hs.walk bit⟩
    · exact ⟨hs.tree, (State.outlen_succ hlt).trans_le hlt, hs.root, hs.root⟩

theorem State.UnpackSafe.unpackByte_error {b : Byte} {i : Nat} {e : Halt} (hs : s.UnpackSafe)
    (h : unpackByte b i s = .error e) : e = .fatal .outOvf := by
  induction i generalizing s with
  | zero => cases h
  | succ i ih =>
    rw [unpackByte] at h
    split at h
    · rename_i u hu
      exact ih (hs.of_unpackBit hu) h
    · rename_i he
      cases h
      exact hs.unpackBit_error he

/-- RDOUT reads below OUTLEN. -/
theorem State.outAt_of_lt {i : BitCount} (h : i.toNat < s.outcap.toNat) :
    s.outAt i = some (Memory.read 0#8 s.outbuf i.toNat) :=
  if_pos h

/-- RDPTR below OUTLEN indexes OUTBUF. -/
theorem State.BoundsOk.rdptr_lt (h : s.BoundsOk) (hr : s.rdptr ≠ s.outlen) : s.rdptr.toNat < s.outlen.toNat :=
  Nat.lt_of_le_of_ne h.1 fun he => hr (BitVec.eq_of_toNat_eq he)

/-- No command of a state that meets the invariant ends in a fault. -/
theorem State.Inv.exec_ne_fault {i : Instr} {f : Fault} (h : s.Inv) : exec i s ≠ .fault f := by
  intro hx
  cases i <;> simp only [exec] at hx <;> obtain ⟨hl, hr⟩ := State.command_fault_cases hx
  case nop | clr | sess | rdfreq | build | rdcode | decs => cases hr
  case rdreg | facc | fset => split at hr <;> cases hr
  case rdnode sel k =>
    split at hr
    · cases hr
    · rw [h.tree.nodeAt (by omega)] at hr
      cases hr
  case genc =>
    obtain ⟨codes, hc⟩ := h.tree.treeCodes_ok
    rw [hc] at hr
    cases hr
  case encb sym =>
    dsimp only at hr
    split at hr
    · cases hr
    · split at hr
      · cases hr
      · split at hr
        · cases hr
        · rename_i he
          cases hr
          cases packCode_error h.bounds.2.1 he
  case encf =>
    split at hr
    · cases hr
    · rename_i he
      cases hr
      cases State.flush_error h.bounds.2.1 he
  case decb b =>
    split at hr
    · cases hr
    · rename_i ha
      split at hr
      · cases hr
      · rename_i he
        cases hr
        cases (h.unpackSafe (by simpa using hl) ha).unpackByte_error he
  case decf =>
    split at hr
    · cases hr
    · split at hr
      · cases hr
      · split at hr <;> cases hr
  case rdout =>
    split at hr
    · cases hr
    · rename_i hne
      rw [State.outAt_of_lt ((h.bounds.rdptr_lt hne).trans_le h.bounds.2.1)] at hr
      cases hr

theorem State.Inv.exec_answers (h : s.Inv) (i : Instr) : ∃ t, exec i s = .next t := by
  cases hx : exec i s with
  | next t => exact ⟨t, rfl⟩
  | fault f => exact absurd hx h.exec_ne_fault
  | refused r => exact absurd hx exec_ne_refused

/-- With the offer taken from the host's acts, a word is handled with an answer: no command looks at the ports. -/
theorem State.Inv.handleWord_answers (h : s.Inv) (w : Word) (rest : List HostAct) :
    ∃ t, handleWord w (s.withHost rest) = .next t := by
  unfold handleWord
  split
  · exact ⟨_, rfl⟩
  · exact ⟨_, rfl⟩
  · rename_i i _
    obtain ⟨t, ht⟩ := h.exec_answers i
    exact ⟨_, (exec_onPort (p := { s.port with host := rest }) i).trans (congrArg _ ht)⟩

/-- Settles O60: every act of the host but an accepted command word answers at once, and a command stops only with a
fault, which no command does. -/
theorem everyStepAnswers : Obligations.EveryStepAnswers := by
  intro s h
  unfold step hostStep
  split
  · exact ⟨_, rfl⟩
  · exact ⟨_, rfl⟩
  · exact ⟨_, rfl⟩
  · split
    · exact h.handleWord_answers _ _
    · exact ⟨_, rfl⟩

/-! ## What a host cannot tell apart -/

/-- `s` with other memories of the tree, the codes and the output. -/
def State.withMems (s : State) (node : List (Nat × Node)) (clen : List (Nat × BitVec 8)) (cbits : List (Nat × CodeBits))
    (outbuf : List Host.Cell) : State :=
  { s with node := node, clen := clen, cbits := cbits, outbuf := outbuf }

/-- States that agree on what is visible differ in those memories only. -/
theorem State.SameVisible.eq_withMems (h : s.SameVisible s') : ∃ n l c o, s' = s.withMems n l c o :=
  ⟨_, _, _, _, h.rest⟩

/-! ### The outcomes of a command -/

theorem State.SameVisible.of_respond (h : s.SameVisible s') (d : Data) :
    (s.respond d).SameVisible (s'.respond d) := by
  obtain ⟨n, l, c, o, rfl⟩ := h.eq_withMems
  exact ⟨rfl, h.node, h.codes, h.out⟩

theorem State.SameVisible.of_reject (h : s.SameVisible s') (c : RejectCode) :
    (s.reject c).SameVisible (s'.reject c) := by
  obtain ⟨n, l, b, o, rfl⟩ := h.eq_withMems
  exact ⟨rfl, h.node, h.codes, h.out⟩

theorem State.SameVisible.of_raiseFatal (h : s.SameVisible s') (c : FatalCode) :
    (s.raiseFatal c).SameVisible (s'.raiseFatal c) := by
  obtain ⟨n, l, b, o, rfl⟩ := h.eq_withMems
  exact ⟨rfl, h.node, h.codes, fun k hk => absurd hk (Nat.not_lt_zero k)⟩

/-- Two ends of a command's rule that a host cannot tell apart. -/
inductive Result.Agree : Result → Result → Prop where
  | ok {t t' : State} (h : t.SameVisible t') (d : Data) : Result.Agree (.ok t d) (.ok t' d)
  | reject (c : RejectCode) : Result.Agree (.reject c) (.reject c)
  | halt (h : Halt) : Result.Agree (.halt h) (.halt h)

theorem Result.Agree.ite {c : Prop} [Decidable c] {r₁ r₂ r₁' r₂' : Result} (h₁ : c → r₁.Agree r₁')
    (h₂ : ¬c → r₂.Agree r₂') : (if c then r₁ else r₂).Agree (if c then r₁' else r₂') := by
  split
  · exact h₁ ‹_›
  · exact h₂ ‹_›

/-- Where the rules' ends agree, so do the commands' outcomes. -/
theorem State.SameVisible.of_command {legal : Bool} {r r' : Result} (hv : s.SameVisible s')
    (hr : legal = true → r.Agree r') (h : s.command legal r = .next t) :
    ∃ t', s'.command legal r' = .next t' ∧ t.SameVisible t' := by
  obtain ⟨rfl, rfl⟩ | ⟨rfl, ⟨u, d, rfl, rfl⟩ | ⟨c, rfl, rfl⟩ | ⟨c, rfl, rfl⟩⟩ := State.command_next_cases h
  · exact ⟨_, rfl, hv.of_reject _⟩
  · cases hr rfl with
    | ok hu => exact ⟨_, rfl, hu.of_respond d⟩
  · cases hr rfl
    exact ⟨_, rfl, hv.of_reject c⟩
  · cases hr rfl
    exact ⟨_, rfl, hv.of_raiseFatal c⟩

/-! ### Reads of valid entries -/

theorem State.SameVisible.nodeAt_eq (h : s.SameVisible s') {i : NodeIdx} (hi : i.toNat < s.nnodes.toNat) :
    s'.nodeAt i = s.nodeAt i := by
  have hread : Memory.read Node.blank s'.node i.toNat = Memory.read Node.blank s.node i.toNat := h.node _ hi
  unfold State.nodeAt
  rw [hread]

theorem State.SameVisible.outAt_eq (h : s.SameVisible s') {i : BitCount} (hi : i.toNat < s.outlen.toNat) :
    s'.outAt i = s.outAt i := by
  have hcap : s'.outcap = s.outcap := by rw [h.rest]
  unfold State.outAt
  rw [hcap, h.out _ hi]

theorem State.SameVisible.clenAt_eq (h : s.SameVisible s') (hc : s.cv = true) (sym : Byte) :
    s'.clenAt sym = s.clenAt sym := by
  unfold State.clenAt
  rw [(h.codes hc).1]

theorem State.SameVisible.cbitsAt_eq (h : s.SameVisible s') (hc : s.cv = true) (sym : Byte) :
    s'.cbitsAt sym = s.cbitsAt sym := by
  unfold State.cbitsAt
  rw [(h.codes hc).2]

/-- GENC's walk reads valid entries only (R160). -/
theorem State.SameVisible.visit_eq (h : s.SameVisible s') (ht : s.TreeOk) (f : Nat) {i : NodeIdx}
    (hi : i.toNat < s.nnodes.toNat) (len val : Nat) : s'.visit f i len val = s.visit f i len val := by
  induction f generalizing i len val with
  | zero => rfl
  | succ f ih =>
    have hl : ∀ len val, s'.visit f (s.nodeEntry i.toNat).left len val = s.visit f (s.nodeEntry i.toNat).left len val :=
      ih (ht.child_lt hi false)
    have hr : ∀ len val, s'.visit f (s.nodeEntry i.toNat).right len val = s.visit f (s.nodeEntry i.toNat).right len val :=
      ih (ht.child_lt hi true)
    simp only [State.visit, h.nodeAt_eq hi, ht.nodeAt hi, hl, hr]

theorem State.SameVisible.treeCodes_eq (h : s.SameVisible s') (ht : s.TreeOk) : s'.treeCodes = s.treeCodes := by
  obtain ⟨n, l, b, o, rfl⟩ := h.eq_withMems
  have hroot : s.shape ≠ .none → s.shape ≠ .absent → s.root.toNat < s.nnodes.toNat := ht.root_lt
  unfold State.treeCodes
  cases hs : s.shape with
  | none | absent => simp only [State.withMems, hs]
  | single =>
    have hn := Nat.zero_lt_of_lt (hroot (by simp [hs]) (by simp [hs]))
    have hread : Memory.read Node.blank n 0 = Memory.read Node.blank s.node 0 := h.node 0 hn
    simp only [State.withMems, hs, hread]
  | general =>
    have hv := h.visit_eq ht (Config.maxLen + 1) (hroot (by simp [hs]) (by simp [hs])) 0 0
    simp only [State.withMems, hs] at hv ⊢
    exact hv

/-! ### The loops -/

/-- States a host cannot tell apart, with a canonical OUTBUF in each. -/
structure State.Twin (s s' : State) : Prop where
  same : s.SameVisible s'
  wf : Memory.wf 0#8 s.outcap.toNat s.outbuf = true
  wf' : Memory.wf 0#8 s'.outcap.toNat s'.outbuf = true

theorem State.Inv.twin (h : s.Inv) (h' : s'.Inv) (hv : s.SameVisible s') : s.Twin s' :=
  ⟨hv, h.mem.2.2.2.2, h'.mem.2.2.2.2⟩

/-- Two ends of a loop that a host cannot tell apart. -/
inductive LoopAgree : Except Halt State → Except Halt State → Prop where
  | ok {t t' : State} (h : t.Twin t') : LoopAgree (.ok t) (.ok t')
  | error (e : Halt) : LoopAgree (.error e) (.error e)

theorem LoopAgree.ite {c : Prop} [Decidable c] {x y x' y' : Except Halt State} (h₁ : c → LoopAgree x x')
    (h₂ : ¬c → LoopAgree y y') : LoopAgree (if c then x else y) (if c then x' else y') := by
  split
  · exact h₁ ‹_›
  · exact h₂ ‹_›

/-- A byte is appended at the same index in both. -/
theorem State.Twin.emit_agree (h : s.Twin s') (b : Byte) : LoopAgree (s.emit b) (s'.emit b) := by
  obtain ⟨n, l, c, o, rfl⟩ := h.same.eq_withMems
  refine LoopAgree.ite (fun _ => .error _) fun _ => LoopAgree.ite (fun hlt => .ok ?_) fun _ => .error _
  refine ⟨⟨rfl, h.same.node, h.same.codes, fun k hk => ?_⟩, Memory.wf_write h.wf hlt, Memory.wf_write h.wf' hlt⟩
  rw [State.outlen_succ hlt] at hk
  by_cases he : k = s.outlen.toNat
  · subst he
    exact (Memory.read_write_same h.wf').trans (Memory.read_write_same h.wf).symm
  · exact (Memory.read_write_other he).trans ((h.same.out k (by omega)).trans (Memory.read_write_other he).symm)

theorem State.Twin.packBit_agree (h : s.Twin s') (bit : Bool) : LoopAgree (s.packBit bit) (s'.packBit bit) := by
  have he := h.emit_agree (s.accWith bit)
  obtain ⟨n, l, c, o, rfl⟩ := h.same.eq_withMems
  have hacc : (s.withMems n l c o).accWith bit = s.accWith bit := rfl
  refine LoopAgree.ite (fun _ => ?_) fun _ => .ok ⟨⟨rfl, h.same.node, h.same.codes, h.same.out⟩, h.wf, h.wf'⟩
  rw [hacc]
  generalize s.emit (s.accWith bit) = x, (s.withMems n l c o).emit (s.accWith bit) = x' at he ⊢
  cases he with
  | ok ht =>
    obtain ⟨n', l', c', o', rfl⟩ := ht.same.eq_withMems
    exact .ok ⟨⟨rfl, ht.same.node, ht.same.codes, ht.same.out⟩, ht.wf, ht.wf'⟩
  | error e => exact .error e

theorem State.Twin.packCode_agree (h : s.Twin s') (code : CodeBits) (j : Nat) :
    LoopAgree (packCode code j s) (packCode code j s') := by
  induction j generalizing s s' with
  | zero => exact .ok h
  | succ j ih =>
    have hb := h.packBit_agree (code.getLsbD j)
    rw [packCode, packCode]
    generalize s.packBit (code.getLsbD j) = x, s'.packBit (code.getLsbD j) = x' at hb ⊢
    cases hb with
    | ok ht => exact ih ht
    | error e => exact .error e

theorem State.Twin.flush_agree (h : s.Twin s') : LoopAgree s.flush s'.flush := by
  have he := h.emit_agree s.padByte
  obtain ⟨n, l, c, o, rfl⟩ := h.same.eq_withMems
  have hpad : (s.withMems n l c o).padByte = s.padByte := rfl
  refine LoopAgree.ite (fun _ => .ok h) fun _ => ?_
  rw [hpad]
  generalize s.emit s.padByte = x, (s.withMems n l c o).emit s.padByte = x' at he ⊢
  cases he with
  | ok ht =>
    obtain ⟨n', l', c', o', rfl⟩ := ht.same.eq_withMems
    exact .ok ⟨⟨rfl, ht.same.node, ht.same.codes, ht.same.out⟩, ht.wf, ht.wf'⟩
  | error e => exact .error e

/-- The walk reads valid entries only (R201). -/
theorem State.Twin.walkBit_agree (h : s.Twin s') (hs : s.UnpackSafe) (bit : Bool) :
    LoopAgree (s.walkBit bit) (s'.walkBit bit) := by
  have hchild := hs.tree.child_lt hs.walk bit
  have hn := h.same.nodeAt_eq hs.walk
  have hn' := h.same.nodeAt_eq hchild
  have he := h.emit_agree (s.nodeEntry ((s.nodeEntry s.walk.toNat).child bit).toNat).sym
  obtain ⟨n, l, c, o, rfl⟩ := h.same.eq_withMems
  have hwalk : (s.withMems n l c o).walk = s.walk := rfl
  unfold State.walkBit
  rw [hwalk, hn, hs.tree.nodeAt hs.walk]
  dsimp only
  rw [hn', hs.tree.nodeAt hchild]
  refine LoopAgree.ite (fun _ => ?_) fun _ => .ok ⟨⟨rfl, h.same.node, h.same.codes, h.same.out⟩, h.wf, h.wf'⟩
  generalize s.emit _ = x, (s.withMems n l c o).emit _ = x' at he ⊢
  cases he with
  | ok ht =>
    obtain ⟨n', l', c', o', rfl⟩ := ht.same.eq_withMems
    exact .ok ⟨⟨rfl, ht.same.node, ht.same.codes, ht.same.out⟩, ht.wf, ht.wf'⟩
  | error e => exact .error e

theorem State.Twin.unpackBit_agree (h : s.Twin s') (hs : s.UnpackSafe) (bit : Bool) :
    LoopAgree (s.unpackBit bit) (s'.unpackBit bit) := by
  have hread : Memory.read Node.blank s'.node 0 = Memory.read Node.blank s.node 0 :=
    h.same.node 0 (Nat.zero_lt_of_lt hs.root)
  obtain ⟨n, l, c, o, rfl⟩ := h.same.eq_withMems
  have hc : State.Twin { s with decConsumed := s.decConsumed + 1#40 }
      (State.withMems { s with decConsumed := s.decConsumed + 1#40 } n l c o) :=
    ⟨⟨rfl, h.same.node, h.same.codes, h.same.out⟩, h.wf, h.wf'⟩
  refine LoopAgree.ite (fun _ => LoopAgree.ite (fun _ => ?_) fun _ => ?_) fun _ => .ok h
  · rw [hread]
    exact hc.emit_agree _
  · exact hc.walkBit_agree ⟨hs.tree, hs.room, hs.root, hs.walk⟩ bit

theorem State.Twin.unpackByte_agree (h : s.Twin s') (hs : s.UnpackSafe) (b : Byte) (i : Nat) :
    LoopAgree (unpackByte b i s) (unpackByte b i s') := by
  induction i generalizing s s' with
  | zero => exact .ok h
  | succ i ih =>
    have hb := h.unpackBit_agree hs (b.getLsbD i)
    rw [unpackByte, unpackByte]
    generalize hx : s.unpackBit (b.getLsbD i) = x, s'.unpackBit (b.getLsbD i) = x' at hb ⊢
    cases hb with
    | ok ht => exact ih ht (hs.of_unpackBit hx)
    | error e => exact .error e

/-! ### Every command -/

/-- BUILD writes every entry that it makes valid. -/
theorem State.SameVisible.of_withTree (h : s.SameVisible s') (hi : s.Inv) (hi' : s'.Inv) :
    s.withTree.SameVisible s'.withTree := by
  have harena : s'.treeArena = s.treeArena := by
    obtain ⟨n, l, c, o, rfl⟩ := h.eq_withMems
    rfl
  have hnode : ∀ k < s.withTree.nnodes.toNat, s'.withTree.nodeEntry k = s.withTree.nodeEntry k := fun k hk => by
    have hk' : k < s'.withTree.nnodes.toNat := by
      rwa [State.withTree_nnodes_toNat, harena, ← State.withTree_nnodes_toNat]
    have hs' := State.treeArena_getElem?_eq_withTree hi'.mem.2.1 hk'
    rw [harena, State.treeArena_getElem?_eq_withTree hi.mem.2.1 hk] at hs'
    exact (Option.some.inj hs').symm
  obtain ⟨n, l, c, o, rfl⟩ := h.eq_withMems
  exact ⟨rfl, hnode, h.codes, h.out⟩

/-- A command answers `s'` as it answers `s`, so far as a host can tell. -/
def AnswersAlike (f : State → Host.Outcome State Fault Refusal) (s s' : State) : Prop :=
  ∀ t, f s = .next t → ∃ t', f s' = .next t' ∧ t.SameVisible t'

theorem State.SameVisible.execRdreg_alike (hv : s.SameVisible s') (r : BitVec 5) : AnswersAlike (execRdreg r) s s' := by
  obtain ⟨n, l, c, o, rfl⟩ := hv.eq_withMems
  have hread : (s.withMems n l c o).readReg r = s.readReg r := rfl
  intro t hx
  unfold execRdreg at hx ⊢
  refine hv.of_command (fun _ => ?_) hx
  rw [hread]
  cases s.readReg r with
  | some d => exact .ok hv d
  | none => exact .reject _

theorem State.SameVisible.execRdnode_alike (hv : s.SameVisible s') (sel : Bool) (k : NodeIdx) :
    AnswersAlike (execRdnode sel k) s s' := by
  have hnode : k.toNat < s.nnodes.toNat → s'.nodeAt k = s.nodeAt k := hv.nodeAt_eq
  obtain ⟨n, l, c, o, rfl⟩ := hv.eq_withMems
  intro t hx
  unfold execRdnode at hx ⊢
  refine hv.of_command (fun _ => .ite (fun _ => .reject _) fun hk => ?_) hx
  rw [hnode (Nat.lt_of_not_le hk)]
  cases s.nodeAt k with
  | some nd => exact .ok hv _
  | none => exact .halt _

theorem State.SameVisible.execGenc_alike (hv : s.SameVisible s') (ht : s.TreeOk) : AnswersAlike execGenc s s' := by
  have hcodes := hv.treeCodes_eq ht
  obtain ⟨n, l, c, o, rfl⟩ := hv.eq_withMems
  intro t hx
  unfold execGenc at hx ⊢
  refine hv.of_command (fun _ => ?_) hx
  rw [hcodes]
  cases s.treeCodes with
  | ok codes =>
    refine .ok ?_ _
    exact ⟨rfl, hv.node, fun _ => ⟨rfl, rfl⟩, hv.out⟩
  | error f => exact .halt _

theorem State.SameVisible.execRdcode_alike (hv : s.SameVisible s') (sym : Byte) (w : BitVec 3) :
    AnswersAlike (execRdcode sym w) s s' := by
  have hdata : s.cv = true → s'.codeData sym w = s.codeData sym w := fun hcv => by
    unfold State.codeData
    rw [hv.clenAt_eq hcv, hv.cbitsAt_eq hcv]
  obtain ⟨n, l, c, o, rfl⟩ := hv.eq_withMems
  intro t hx
  unfold execRdcode at hx ⊢
  refine hv.of_command (fun hl => ?_) hx
  rw [hdata hl]
  exact .ok hv _

theorem State.Twin.execEncb_alike (h : s.Twin s') (hp : s.PhaseOk) (sym : Byte) : AnswersAlike (execEncb sym) s s' := by
  have hcv : (s.phase == .coded || s.phase == .encoding) = true → s.cv = true := fun hl => hp.2.2.1 (by simpa using hl)
  have hclen := h.same.clenAt_eq (sym := sym)
  have hcbits := h.same.cbitsAt_eq (sym := sym)
  have hc := h.packCode_agree (s.cbitsAt sym) (s.clenAt sym).toNat
  obtain ⟨n, l, c, o, rfl⟩ := h.same.eq_withMems
  intro t hx
  unfold execEncb at hx ⊢
  refine h.same.of_command (fun hl => ?_) hx
  rw [hclen (hcv hl), hcbits (hcv hl)]
  refine .ite (fun _ => .halt _) fun _ => .ite (fun _ => .halt _) fun _ => ?_
  generalize packCode (s.cbitsAt sym) _ s = x, packCode (s.cbitsAt sym) _ (s.withMems n l c o) = x' at hc ⊢
  cases hc with
  | ok ht =>
    obtain ⟨n', l', c', o', rfl⟩ := ht.same.eq_withMems
    refine .ok ?_ _
    exact ⟨rfl, ht.same.node, ht.same.codes, ht.same.out⟩
  | error e => exact .halt e

theorem State.Twin.execEncf_alike (h : s.Twin s') : AnswersAlike execEncf s s' := by
  have hf := h.flush_agree
  obtain ⟨n, l, c, o, rfl⟩ := h.same.eq_withMems
  intro t hx
  unfold execEncf at hx ⊢
  refine h.same.of_command (fun _ => ?_) hx
  generalize s.flush = x, (s.withMems n l c o).flush = x' at hf ⊢
  cases hf with
  | ok ht =>
    obtain ⟨n', l', c', o', rfl⟩ := ht.same.eq_withMems
    refine .ok ?_ _
    exact ⟨rfl, ht.same.node, ht.same.codes, ht.same.out⟩
  | error e => exact .halt e

theorem State.Twin.execDecb_alike (h : s.Twin s')
    (hs : s.phase = .decoding → s.shape ≠ .absent → s.UnpackSafe) (b : Byte) : AnswersAlike (execDecb b) s s' := by
  have hu := fun hp ha => h.unpackByte_agree (hs hp ha) b 8
  obtain ⟨n, l, c, o, rfl⟩ := h.same.eq_withMems
  intro t hx
  unfold execDecb at hx ⊢
  refine h.same.of_command (fun hl => .ite (fun _ => .ok h.same _) fun ha => ?_) hx
  have hu := hu (beq_iff_eq.1 hl) ha
  generalize unpackByte b 8 s = x, unpackByte b 8 (s.withMems n l c o) = x' at hu ⊢
  cases hu with
  | ok ht =>
    obtain ⟨n', l', c', o', rfl⟩ := ht.same.eq_withMems
    exact .ok ht.same _
  | error e => exact .halt e

theorem State.SameVisible.execRdout_alike (hv : s.SameVisible s') (hb : s.BoundsOk) : AnswersAlike execRdout s s' := by
  have hout : s.rdptr ≠ s.outlen → s'.outAt s.rdptr = s.outAt s.rdptr := fun hne => hv.outAt_eq (hb.rdptr_lt hne)
  obtain ⟨n, l, c, o, rfl⟩ := hv.eq_withMems
  have hptr : (s.withMems n l c o).rdptr = s.rdptr := rfl
  intro t hx
  unfold execRdout at hx ⊢
  refine hv.of_command (fun _ => .ite (fun _ => .reject _) fun hne => ?_) hx
  rw [hptr, hout hne]
  cases s.outAt s.rdptr with
  | some b =>
    refine .ok ?_ _
    exact ⟨rfl, hv.node, hv.codes, hv.out⟩
  | none => exact .halt _

/-- Settles O53: what a command reads are registers, FREQ and valid entries, which both states share. -/
theorem undefinedEntriesAreUnobservable : Obligations.UndefinedEntriesAreUnobservable := by
  intro i s s' t hi hi' hv hx
  have htwin := hi.twin hi' hv
  cases i <;> simp only [exec] at hx ⊢
  case rdreg r => exact hv.execRdreg_alike r t hx
  case rdnode sel k => exact hv.execRdnode_alike sel k t hx
  case genc => exact hv.execGenc_alike hi.tree t hx
  case rdcode sym w => exact hv.execRdcode_alike sym w t hx
  case encb sym => exact htwin.execEncb_alike hi.phase sym t hx
  case encf => exact htwin.execEncf_alike t hx
  case decb b => exact htwin.execDecb_alike hi.unpackSafe b t hx
  case rdout => exact hv.execRdout_alike hi.bounds t hx
  all_goals
    have htree := hv.of_withTree hi hi'
    obtain ⟨n, l, c, o, rfl⟩ := hv.eq_withMems
    simp only [execNop, execClr, execSess, execFacc, execFset, execRdfreq, execBuild, execDecs, execDecf] at hx ⊢
    refine hv.of_command (fun _ => ?_) hx
  case nop | rdfreq sym => exact .ok hv _
  case clr =>
    refine .ok ?_ _
    exact ⟨rfl, fun k hk => absurd hk k.not_lt_zero, fun h => absurd h Bool.false_ne_true,
      fun k hk => absurd hk k.not_lt_zero⟩
  case sess =>
    refine .ok ?_ _
    exact ⟨rfl, hv.node, hv.codes, fun k hk => absurd hk k.not_lt_zero⟩
  case facc sym =>
    refine .ite (fun _ => .halt _) fun _ => .ok ?_ _
    exact ⟨rfl, hv.node, hv.codes, hv.out⟩
  case fset sym v =>
    refine .ite (fun _ => .halt _) fun _ => .ok ?_ _
    exact ⟨rfl, hv.node, hv.codes, hv.out⟩
  case build => exact .ok htree _
  case decs d =>
    refine .ok ?_ _
    exact ⟨rfl, hv.node, hv.codes, hv.out⟩
  case decf =>
    refine .ite (fun _ => .ok ?_ _) fun _ => .ite (fun _ => .halt _) fun _ => .ite (fun _ => .halt _) fun _ => .ok ?_ _
    all_goals exact ⟨rfl, hv.node, hv.codes, hv.out⟩

end Sys2Proof.Machine

namespace Sys2Proof.Machine

variable {s t u : State}

/-! ## What every step keeps -/

section
variable {P : State → Prop} (hport : ∀ s p, P s → P (s.onPort p)) (hfatal : ∀ s c, P s → P (s.raiseFatal c))
  (heffect : ∀ i s u, Effect i s u → P s → P u)
include hport hfatal heffect

/-- A property that looks at no port, that the fatal-error entry keeps, and that every command's effect keeps, is kept by
every command. -/
theorem exec_keeps {i : Instr} (h : P s) (hx : exec i s = .next t) : P t := by
  obtain ⟨v, d, he, rfl⟩ | ⟨c, rfl⟩ | ⟨c, -, rfl⟩ := exec_next_cases hx
  · exact hport v _ (heffect i s v he h)
  · exact hport s _ h
  · exact hfatal s c h

/-- And where reset keeps it too, by every step. -/
theorem step_keeps (hreset : ∀ s, P s → P s.hwReset) (h : P s) (hstep : step s = .next t) : P t := by
  obtain ⟨-, rfl⟩ | ⟨rest, ⟨-, rfl⟩ | ⟨-, rfl⟩ | ⟨w, -, ⟨-, rfl⟩ | ⟨-, hrun⟩⟩⟩ := step_next_cases hstep
  · exact h
  · exact hreset _ (hport s _ h)
  · obtain ⟨q, hq⟩ := State.takeRsp_eq (s := s.withHost rest)
    rw [hq]
    exact hport s q h
  · exact hport s _ h
  · obtain ⟨-, rfl⟩ | ⟨-, rfl⟩ | ⟨i, -, hx⟩ := hrun
    · exact hport s _ h
    · exact hport s _ h
    · exact exec_keeps hport hfatal heffect (hport s _ h) hx

end

theorem Effect.outcap_eq {i : Instr} (he : Effect i s u) : u.outcap = s.outcap := by
  cases he with
  | encb _ _ _ _ _ _ hu => rw [packCode_frame hu]
  | encf _ _ _ hu => obtain ⟨-, rfl⟩ | ⟨-, -, rfl⟩ := State.flush_ok hu <;> rfl
  | decb _ _ _ _ _ hu => rw [unpackByte_frame hu]
  | _ => rfl

/-- Settles O51: no effect, no fatal error and no reset writes OUTCAP, and ID has no storage. -/
theorem outcapAndIdAreConstant : Obligations.OutcapAndIdAreConstant := by
  intro s t hstep
  have hcap : t.outcap = s.outcap := step_keeps (P := fun v => v.outcap = s.outcap) (fun _ _ h => h) (fun _ _ h => h)
    (fun _ _ _ he h => he.outcap_eq.trans h) (fun _ h => h) rfl hstep
  exact ⟨hcap, rfl⟩

/-! ## The form of the memories -/

theorem wf_writeArena {ns : List Node} {m : List (Nat × Node)} {size i : Nat} (hwf : Memory.wf Node.blank size m = true)
    (hsize : i + ns.length ≤ size) : Memory.wf Node.blank size (writeArena m i ns) = true := by
  induction ns generalizing m i with
  | nil => exact hwf
  | cons n ns ih =>
    rw [List.length_cons] at hsize
    exact ih (Memory.wf_write hwf (by omega)) (by omega)

theorem wf_codeLens (codes : List CodeEntry) : Memory.wf 0#8 Config.alphabet (codeLens codes) = true :=
  List.foldlRecOn (motive := fun m => Memory.wf 0#8 Config.alphabet m = true) codes _ Memory.wf_nil
    fun _ hm e _ => Memory.wf_write hm e.sym.isLt

theorem wf_codeWords (codes : List CodeEntry) : Memory.wf 0#255 Config.alphabet (codeWords codes) = true :=
  List.foldlRecOn (motive := fun m => Memory.wf 0#255 Config.alphabet m = true) codes _ Memory.wf_nil
    fun _ hm e _ => Memory.wf_write hm e.sym.isLt

theorem State.unpackBit_wf {bit : Bool} (hwf : Memory.wf 0#8 s.outcap.toNat s.outbuf = true) (h : s.unpackBit bit = .ok t) :
    Memory.wf 0#8 t.outcap.toNat t.outbuf = true := by
  obtain rfl | ⟨-, ⟨-, he⟩ | ⟨-, hw⟩⟩ := State.unpackBit_ok h
  · exact hwf
  · obtain ⟨hlt, rfl⟩ := State.emit_ok he
    exact Memory.wf_write hwf hlt
  · obtain ⟨here, nxt, -, -, ⟨-, rfl⟩ | ⟨-, hlt, rfl⟩⟩ := State.walkBit_ok hw
    · exact hwf
    · exact Memory.wf_write hwf hlt

theorem unpackByte_wf {b : Byte} {i : Nat} (hwf : Memory.wf 0#8 s.outcap.toNat s.outbuf = true)
    (h : unpackByte b i s = .ok t) : Memory.wf 0#8 t.outcap.toNat t.outbuf = true := by
  induction i generalizing s with
  | zero => cases h; exact hwf
  | succ i ih =>
    rw [unpackByte] at h
    split at h
    · rename_i v hv
      exact ih (State.unpackBit_wf hwf hv) h
    · cases h

theorem State.flush_wf (hwf : Memory.wf 0#8 s.outcap.toNat s.outbuf = true) (h : s.flush = .ok t) :
    Memory.wf 0#8 t.outcap.toNat t.outbuf = true := by
  obtain ⟨-, rfl⟩ | ⟨-, hlt, rfl⟩ := State.flush_ok h
  · exact hwf
  · exact Memory.wf_write hwf hlt

/-- A loop that writes no memory but OUTBUF keeps the form of all where it keeps OUTBUF's. -/
theorem State.MemOk.of_outbuf (h : s.MemOk) (hfreq : t.freq = s.freq) (hnode : t.node = s.node) (hclen : t.clen = s.clen)
    (hcbits : t.cbits = s.cbits) (hout : Memory.wf 0#8 t.outcap.toNat t.outbuf = true) : t.MemOk := by
  obtain ⟨hf, hn, hl, hb, -⟩ := h
  exact ⟨hfreq ▸ hf, hnode ▸ hn, hclen ▸ hl, hcbits ▸ hb, hout⟩

theorem Effect.keeps_memOk {i : Instr} (he : Effect i s u) (h : s.MemOk) : u.MemOk := by
  have ⟨hfreq, hnode, hclen, hcbits, hout⟩ := h
  cases he with
  | clr => exact ⟨Memory.wf_nil, hnode, hclen, hcbits, hout⟩
  | facc _ sym _ _ => exact ⟨Memory.wf_write hfreq sym.isLt, hnode, hclen, hcbits, hout⟩
  | fset _ sym _ _ _ => exact ⟨Memory.wf_write hfreq sym.isLt, hnode, hclen, hcbits, hout⟩
  | build =>
    have hsize : 0 + s.treeArena.length ≤ Config.nodeCap := by
      rw [Nat.zero_add]
      exact s.treeArena_length_le
    exact ⟨hfreq, wf_writeArena hnode hsize, hclen, hcbits, hout⟩
  | genc _ codes _ _ => exact ⟨hfreq, hnode, wf_codeLens codes, wf_codeWords codes, hout⟩
  | encb _ v _ _ _ _ hu =>
    have hfr := packCode_frame hu
    refine h.of_outbuf ?_ ?_ ?_ ?_ (packCode_packs hout hu).grows.wf
    all_goals rw [hfr]
  | encf _ v _ hu =>
    have hwf := State.flush_wf hout hu
    obtain ⟨-, rfl⟩ | ⟨-, -, rfl⟩ := State.flush_ok hu <;> exact ⟨hfreq, hnode, hclen, hcbits, hwf⟩
  | decb _ _ _ _ _ hu =>
    have hfr := unpackByte_frame hu
    refine h.of_outbuf ?_ ?_ ?_ ?_ (unpackByte_wf hout hu)
    all_goals rw [hfr]
  | _ => exact h

theorem State.memOk_hwReset (s : State) : s.hwReset.MemOk :=
  ⟨Memory.wf_nil, Memory.wf_nil, Memory.wf_nil, Memory.wf_nil, Memory.wf_nil⟩

/-- Settles O56: every effect writes inside the memories, and reset empties them. -/
theorem stepKeepsTheMemoryForm : Obligations.StepKeepsTheMemoryForm := by
  intro s t h hstep
  exact step_keeps (P := State.MemOk) (fun _ _ h => h) (fun _ _ h => h) (fun _ _ _ he h => he.keeps_memOk h)
    (fun v _ => v.memOk_hwReset) h hstep

/-! ## FREQ and its sum -/

/-- A write changes a sum over the entries of a memory by what it changes at its own entry. -/
theorem Memory.sum_map_write {α : Type} [DecidableEq α] {d v : α} {m : List (Nat × α)} {size a : Nat} (g : α → Nat)
    (hwf : Memory.wf d size m = true) (ha : a < size) :
    ((List.range size).map fun k => g (Memory.read d (Memory.write d m a v) k)).sum + g (Memory.read d m a) =
      ((List.range size).map fun k => g (Memory.read d m k)).sum + g v := by
  have hmem : a ∈ List.range size := List.mem_range.2 ha
  have hothers : ((List.range size).erase a).map (fun k => g (Memory.read d (Memory.write d m a v) k)) =
      ((List.range size).erase a).map fun k => g (Memory.read d m k) :=
    List.map_congr_left fun k hk => by rw [Memory.read_write_other ((List.nodup_range.mem_erase_iff.1 hk).1)]
  rw [← List.sum_map_erase _ hmem, ← List.sum_map_erase (fun k => g (Memory.read d m k)) hmem, hothers,
    Memory.read_write_same hwf]
  omega

/-- A read by symbol number is a read by index. -/
theorem toNat_ofNat_of_mem_alphabet {k : Nat} (hk : k ∈ List.range Config.alphabet) : (BitVec.ofNat 8 k).toNat = k := by
  rw [BitVec.toNat_ofNat, Nat.mod_eq_of_lt (List.mem_range.1 hk)]

theorem State.freqSum_eq (s : State) :
    s.freqSum = ((List.range Config.alphabet).map fun k => (Memory.read 0#32 s.freq k).toNat).sum :=
  congrArg List.sum <| List.map_congr_left fun k hk => by
    rw [State.freqAt, toNat_ofNat_of_mem_alphabet hk]

theorem State.freqSum_setFreq (hwf : Memory.wf 0#32 Config.alphabet s.freq = true) (sym : Byte) (v : Count) :
    (s.setFreq sym v).freqSum + (s.freqAt sym).toNat = s.freqSum + v.toNat := by
  rw [State.freqSum_eq, State.freqSum_eq]
  exact Memory.sum_map_write BitVec.toNat hwf sym.isLt

/-- No count is above the sum of all. -/
theorem State.freqAt_le_freqSum (s : State) (sym : Byte) : (s.freqAt sym).toNat ≤ s.freqSum := by
  rw [State.freqSum_eq]
  exact List.single_le_sum (fun _ _ => Nat.zero_le _) _
    (List.mem_map.2 ⟨sym.toNat, List.mem_range.2 sym.isLt, rfl⟩)

theorem State.freqAt_setFreq_same (hwf : Memory.wf 0#32 Config.alphabet s.freq = true) (sym : Byte) (v : Count) :
    (s.setFreq sym v).freqAt sym = v :=
  Memory.read_write_same hwf

theorem State.freqAt_setFreq_other {sym y : Byte} (hne : y ≠ sym) (v : Count) :
    (s.setFreq sym v).freqAt y = s.freqAt y :=
  Memory.read_write_other fun h => hne (BitVec.eq_of_toNat_eq h)

/-- FSET's new total is exact where TOTAL is the sum (R121; log 7). -/
theorem State.TotalOk.fsetTotal_eq (h : s.TotalOk) (sym : Byte) (v : Count) :
    s.fsetTotal sym v = s.total.toNat - (s.freqAt sym).toNat + v.toNat := by
  have hle := s.freqAt_le_freqSum sym
  rw [← h] at hle
  unfold State.fsetTotal
  omega

/-- FSET that fits leaves TOTAL the sum. -/
theorem State.TotalOk.of_fset (h : s.TotalOk) (hwf : Memory.wf 0#32 Config.alphabet s.freq = true) {sym : Byte} {v : Count}
    (ht : s.fsetTotal sym v ≤ Config.maxTotal) :
    State.TotalOk { s.setFreq sym v with total := BitVec.ofNat 32 (s.fsetTotal sym v) } := by
  have hsum := State.freqSum_setFreq hwf sym v
  have hle := s.freqAt_le_freqSum sym
  have heq := h.fsetTotal_eq sym v
  have hnat : (BitVec.ofNat 32 (s.fsetTotal sym v)).toNat = s.fsetTotal sym v := by
    rw [BitVec.toNat_ofNat, Nat.mod_eq_of_lt (Nat.lt_of_le_of_lt ht (by decide))]
  change (BitVec.ofNat 32 (s.fsetTotal sym v)).toNat = (s.setFreq sym v).freqSum
  rw [hnat, heq, h]
  omega

/-- FACC is FSET of one more. -/
theorem State.TotalOk.fsetTotal_succ (h : s.TotalOk) (sym : Byte) (ht : s.total.toNat ≠ Config.maxTotal) :
    s.fsetTotal sym (s.freqAt sym + 1#32) = s.total.toNat + 1 := by
  have hle := s.freqAt_le_freqSum sym
  rw [← h] at hle
  have hlt := s.total.isLt
  simp only [Config.maxTotal] at ht
  have hsucc : (s.freqAt sym + 1#32).toNat = (s.freqAt sym).toNat + 1 := by
    rw [BitVec.toNat_add, BitVec.toNat_ofNat]
    omega
  rw [h.fsetTotal_eq, hsucc]
  omega

theorem State.TotalOk.of_facc (h : s.TotalOk) (hwf : Memory.wf 0#32 Config.alphabet s.freq = true) {sym : Byte}
    (ht : s.total.toNat ≠ Config.maxTotal) :
    State.TotalOk { s.setFreq sym (s.freqAt sym + 1#32) with total := s.total + 1#32 } := by
  have heq := h.fsetTotal_succ sym ht
  have hlt := s.total.isLt
  have htotal : s.total + 1#32 = BitVec.ofNat 32 (s.fsetTotal sym (s.freqAt sym + 1#32)) := by
    rw [heq, BitVec.ofNat_add, BitVec.ofNat_toNat, BitVec.setWidth_eq]
  rw [htotal]
  exact h.of_fset hwf (by simp only [Config.maxTotal] at ht ⊢; omega)

theorem State.freqSum_nil (h : s.freq = []) : s.freqSum = 0 := by
  simp [State.freqSum_eq, h]

theorem Effect.keeps_totalOk {i : Instr} (he : Effect i s u) (hm : s.MemOk) (h : s.TotalOk) : u.TotalOk := by
  cases he with
  | clr => exact (State.freqSum_nil rfl).symm
  | facc _ _ _ ht => exact h.of_facc hm.1 ht
  | fset _ _ _ _ ht => exact h.of_fset hm.1 ht
  | encb _ _ _ _ _ _ hu => rw [packCode_frame hu]; exact h
  | encf _ _ _ hu => obtain ⟨-, rfl⟩ | ⟨-, -, rfl⟩ := State.flush_ok hu <;> exact h
  | decb _ _ _ _ _ hu => rw [unpackByte_frame hu]; exact h
  | _ => exact h

/-- Settles O57: FACC and FSET add to TOTAL what they add to their entry, and only CLR and reset write FREQ besides. -/
theorem stepKeepsTheTotal : Obligations.StepKeepsTheTotal := by
  intro s t hm h hstep
  exact (step_keeps (P := fun v => v.MemOk ∧ v.TotalOk) (fun _ _ h => h) (fun _ _ h => h)
    (fun _ _ _ he h => ⟨he.keeps_memOk h.1, he.keeps_totalOk h.1 h.2⟩)
    (fun v _ => ⟨v.memOk_hwReset, (State.freqSum_nil rfl).symm⟩) ⟨hm, h⟩ hstep).2

/-- Settles O19: FSET past its check writes one entry, and the total it stores is exact. -/
theorem fsetSetsTheCount : Obligations.FsetSetsTheCount := by
  intro s sym v hm h hp hfit
  have heq := h.fsetTotal_eq sym v
  have hle : s.fsetTotal sym v ≤ Config.maxTotal := heq ▸ hfit
  refine ⟨State.respond { s.setFreq sym v with total := BitVec.ofNat 32 (s.fsetTotal sym v) }
    ((BitVec.ofNat 32 (s.fsetTotal sym v)).setWidth 40), ?_, State.freqAt_setFreq_same hm.1 sym v,
    fun y hy => State.freqAt_setFreq_other hy v, ?_, rfl, ?_⟩
  · simp only [exec, execFset, hp, beq_self_eq_true, State.command_true, if_neg (Nat.not_lt.2 hle), State.finish_ok]
  · rw [State.respond_total, BitVec.toNat_ofNat, Nat.mod_eq_of_lt (Nat.lt_of_le_of_lt hle (by decide)), heq]
  · rw [State.Answers, State.respond_port, State.setFreq_phase, hp]
    rfl

/-! ## Reset and CLR -/

/-- Settles O11: the fields of `State.hwReset`. -/
theorem resetActResetsEverything : Obligations.ResetActResetsEverything := by
  intro s rest hhost
  refine ⟨(s.withHost rest).hwReset, ?_, regsReset_reset, rfl, rfl⟩
  simp only [step, hostStep, hhost]

theorem State.regsReset_clearAll (s : State) : s.clearAll.RegsReset := by
  unfold State.RegsReset
  exact ⟨rfl, rfl, rfl, rfl, rfl, rfl, rfl, rfl, rfl, rfl, rfl, rfl, rfl, rfl, rfl, rfl, fun _ => rfl⟩

/-- Settles O14: CLR has no check, and its state is `State.clearAll`. -/
theorem clrClearsRegistersAndFreq : Obligations.ClrClearsRegistersAndFreq :=
  fun s => ⟨s.clearAll.respond 0#40, rfl, s.regsReset_clearAll, rfl, rfl, rfl, rfl, rfl, rfl⟩

/-! ## Reading registers and nodes -/

/-- Fields side by side, as a number: the upper one is shifted by the width of the lower. -/
theorem toNat_append_eq_add {m n : Nat} (x : BitVec m) (y : BitVec n) :
    (x ++ y).toNat = x.toNat * 2 ^ n + y.toNat := by
  rw [BitVec.toNat_append, ← Nat.shiftLeft_add_eq_or_of_lt y.isLt, Nat.shiftLeft_eq]

theorem eq_ofNat_of_toNat_eq {w n : Nat} {x : BitVec w} (h : x.toNat = n) : x = BitVec.ofNat w n := by
  rw [← h, BitVec.ofNat_toNat, BitVec.setWidth_eq]

theorem State.statusView_eq (s : State) : s.statusView =
    BitVec.ofNat 40 (s.errcode.toNat * 2 ^ 8 + s.cv.toNat * 2 ^ 6 + s.shape.bits.toNat * 2 ^ 4 + s.phase.bits.toNat) := by
  apply eq_ofNat_of_toNat_eq
  simp only [State.statusView, State.cvBit, toNat_append_eq_add, BitVec.toNat_ofNat, BitVec.toNat_ofBool]
  omega

theorem State.accstatView_eq (s : State) : s.accstatView = BitVec.ofNat 40 (s.acc.toNat * 2 ^ 8 + s.accn.toNat) := by
  apply eq_ofNat_of_toNat_eq
  simp only [State.accstatView, toNat_append_eq_add, BitVec.toNat_ofNat]
  omega

theorem exec_rdreg_of_some {r : BitVec 5} {d : Data} (h : s.readReg r = some d) :
    exec (.rdreg r) s = .next (s.respond d) := by
  simp only [exec, execRdreg, h, State.command_true, State.finish_ok]

/-- The reserved register numbers (R41). -/
theorem State.readReg_reserved {r : BitVec 5} (h : 0x0D < r.toNat) : s.readReg r = none := by
  unfold State.readReg
  split
  case h_15 => rfl
  all_goals omega

/-- The fourteen registers, each as a number (R39 to R41, R43, R44). -/
theorem State.readReg_eq (s : State) :
    ∀ p ∈ [
        (0x00, s.errcode.toNat * 2 ^ 8 + s.cv.toNat * 2 ^ 6 + s.shape.bits.toNat * 2 ^ 4 + s.phase.bits.toNat),
        (0x01, s.total.toNat), (0x02, s.nleaves.toNat), (0x03, s.nnodes.toNat), (0x04, s.root.toNat),
        (0x05, s.encBits.toNat), (0x06, s.acc.toNat * 2 ^ 8 + s.accn.toNat), (0x07, s.decTarget.toNat),
        (0x08, s.decConsumed.toNat), (0x09, s.walk.toNat), (0x0A, s.outlen.toNat), (0x0B, s.rdptr.toNat),
        (0x0C, s.outcap.toNat), (0x0D, 0x4855464601)],
      s.readReg (BitVec.ofNat 5 p.1) = some (BitVec.ofNat 40 p.2) := by
  have hstatus : s.readReg 0x00#5 = some s.statusView := rfl
  have haccstat : s.readReg 0x06#5 = some s.accstatView := rfl
  rw [s.statusView_eq] at hstatus
  rw [s.accstatView_eq] at haccstat
  simp only [List.forall_mem_cons, hstatus, haccstat]
  simp [State.readReg, idValue]

/-- Settles O16: RDREG answers what `State.readReg` gives, or rejects where it gives none. -/
theorem rdregReadsEachRegister : Obligations.RdregReadsEachRegister := by
  refine fun s => ⟨fun p hp => exec_rdreg_of_some (s.readReg_eq p hp), fun r hr => ?_⟩
  simp only [exec, execRdreg, State.readReg_reserved hr, State.command_true, State.finish_reject]
  rfl

/-- The two layouts of RDNODE, as numbers (R145). -/
theorem Node.dataWord_eq (n : Node) (sel : Bool) : n.dataWord sel = BitVec.ofNat 40
    (if sel = true then n.leaf.toNat * 2 ^ 26 + n.sym.toNat * 2 ^ 18 + n.right.toNat * 2 ^ 9 + n.left.toNat
      else n.leaf.toNat * 2 ^ 32 + n.weight.toNat) := by
  apply eq_ofNat_of_toNat_eq
  unfold Node.dataWord
  split <;> simp only [toNat_append_eq_add, BitVec.toNat_ofNat, BitVec.toNat_ofBool] <;> omega

/-- Settles O27: an index below NNODES is an entry of NODE, which is answered in the layout chosen. -/
theorem rdnodeReadsTheNode : Obligations.RdnodeReadsTheNode := by
  refine fun s sel i => ⟨fun hi hcap => ?_, fun hi => ?_⟩
  · have hat : s.nodeAt i = some (s.nodeEntry i.toNat) := State.nodeAt_of_lt (Nat.lt_of_lt_of_le hi hcap)
    simp only [exec, execRdnode, State.command_true, if_neg (Nat.not_le.2 hi), hat, State.finish_ok, Node.dataWord_eq]
    rfl
  · simp only [exec, execRdnode, State.command_true, if_pos hi, State.finish_reject]
    rfl

/-! ## BUILD's tree, with its leaves -/

/-- Taking the two least, again and again, with fuel enough ends in a collection of one: what permuting the collection and
merging its first two keep then holds of the finished arena. -/
theorem mergeAll_induction {P : List QItem → List Node → Prop}
    (hperm : ∀ q q' arena, P q arena → q.Perm q' → P q' arena)
    (hmerge : ∀ a b q arena, P (a :: b :: q) arena →
      P ({ weight := a.weight + b.weight, index := arena.length } :: q)
        (arena ++ [Node.ofChildren (a.weight + b.weight) (BitVec.ofNat 9 a.index) (BitVec.ofNat 9 b.index)]))
    {k : Nat} {q : List QItem} {arena : List Node} (h : P q arena) (hne : q ≠ []) (hk : q.length ≤ k + 1) :
    ∃ x, P [x] (mergeAll k q arena) := by
  induction k generalizing q arena with
  | zero =>
    obtain ⟨x, rfl⟩ := List.length_eq_one_iff.1 (Nat.le_antisymm hk (List.length_pos_iff.2 hne))
    exact ⟨x, h⟩
  | succ k ih =>
    rw [mergeAll]
    split
    · rename_i hq
      exact absurd (takeLeast_eq_none hq) hne
    · rename_i a q₁ hq
      have hperm₁ := perm_of_takeLeast hq
      split
      · rename_i hq₁
        rw [takeLeast_eq_none hq₁] at hperm₁
        exact ⟨a, hperm _ _ _ h hperm₁⟩
      · rename_i b q₂ hq₁
        have hperm₂ := hperm₁.trans ((perm_of_takeLeast hq₁).cons a)
        refine ih (hmerge a b q₂ arena (hperm _ _ _ h hperm₂)) (List.cons_ne_nil _ _) ?_
        have := hperm₂.length_eq
        simp only [List.length_cons] at this ⊢
        omega

/-- The leaves under entry `i` of the arena, from left to right, have the symbols `syms`. -/
inductive LeavesBelow (arena : List Node) : (i : Nat) → (syms : List Byte) → Prop where
  | leaf {i : Nat} {nd : Node} (hi : arena[i]? = some nd) (hl : nd.leaf = true) : LeavesBelow arena i [nd.sym]
  | inner {i : Nat} {nd : Node} {xs ys : List Byte} (hi : arena[i]? = some nd) (hl : nd.leaf = false)
      (hleft : LeavesBelow arena nd.left.toNat xs) (hright : LeavesBelow arena nd.right.toNat ys) :
      LeavesBelow arena i (xs ++ ys)

theorem LeavesBelow.append {arena : List Node} {i : Nat} {syms : List Byte} (h : LeavesBelow arena i syms)
    (ns : List Node) : LeavesBelow (arena ++ ns) i syms := by
  have hold : ∀ {k nd}, arena[k]? = some nd → (arena ++ ns)[k]? = some nd := fun hk => by
    rw [List.getElem?_append_left (List.getElem?_eq_some_iff.1 hk).1, hk]
  induction h with
  | leaf hi hl => exact .leaf (hold hi) hl
  | inner hi hl _ _ hxs hys => exact .inner (hold hi) hl hxs hys

/-- What every merge keeps besides, for the seeded `leaves`: they stand first in the arena and only internal nodes follow,
and every leaf stands below exactly one node of the collection. -/
structure MergeOk (leaves : List Node) (q : List QItem) (arena : List Node) : Prop where
  base : ArenaOk leaves.length q arena
  inner : ∃ ns, arena = leaves ++ ns ∧ ∀ nd ∈ ns, nd.leaf = false
  below : ∃ ls, List.Forall₂ (fun x l => LeavesBelow arena x.index l) q ls ∧ ls.flatten.Perm (leaves.map Node.sym)

theorem MergeOk.perm {leaves : List Node} {q q' : List QItem} {arena : List Node} (h : MergeOk leaves q arena)
    (hp : q.Perm q') : MergeOk leaves q' arena := by
  obtain ⟨harena, hinner, ls, hbelow, hls⟩ := h
  obtain ⟨ls', hbelow', hp'⟩ := List.perm_comp_forall₂ hp.symm hbelow
  exact ⟨harena.perm hp, hinner, ls', hbelow', hp'.flatten.trans hls⟩

/-- An index of the arena fits its field. -/
theorem ArenaOk.toNat_ofNat_index {n : Nat} {q : List QItem} {arena : List Node} (h : ArenaOk n q arena)
    (hn : n ≤ Config.alphabet) {x : QItem} (hx : x ∈ q) : (BitVec.ofNat 9 x.index).toNat = x.index := by
  obtain ⟨fs, hfits, -⟩ := (h.perm (List.perm_cons_erase hx)).fits
  obtain ⟨f, fs, hf, -, -⟩ := List.forall₂_cons_left_iff.1 hfits
  have hlt := hf.lt_length
  have hcount := h.count
  have hpos := List.length_pos_of_mem hx
  simp only [Config.alphabet] at hn
  rw [BitVec.toNat_ofNat, Nat.mod_eq_of_lt (by omega)]

/-- The new node's leaves are those of both children, and no others move. -/
theorem MergeOk.merge {leaves : List Node} {a b : QItem} {q : List QItem} {arena : List Node}
    (h : MergeOk leaves (a :: b :: q) arena) (hn : leaves.length ≤ Config.alphabet) (w : Count) :
    MergeOk leaves ({ weight := w, index := arena.length } :: q)
      (arena ++ [Node.ofChildren w (BitVec.ofNat 9 a.index) (BitVec.ofNat 9 b.index)]) := by
  obtain ⟨harena, ⟨ns, hns, hinner⟩, ls, hbelow, hls⟩ := h
  have hia := harena.toNat_ofNat_index hn List.mem_cons_self
  have hib := harena.toNat_ofNat_index hn (List.mem_cons_of_mem a List.mem_cons_self)
  rw [List.forall₂_cons_left_iff] at hbelow
  obtain ⟨xs, ls, hxs, hbelow, rfl⟩ := hbelow
  rw [List.forall₂_cons_left_iff] at hbelow
  obtain ⟨ys, ls, hys, hbelow, rfl⟩ := hbelow
  refine ⟨harena.merge hn w, ⟨ns ++ [_], by rw [hns, List.append_assoc], ?_⟩, (xs ++ ys) :: ls, .cons ?_ ?_, ?_⟩
  · intro nd hnd
    rcases List.mem_append.1 hnd with hold | hnew
    · exact hinner nd hold
    · rw [List.mem_singleton.1 hnew]
      rfl
  · refine .inner List.getElem?_concat_length rfl ?_ ?_
    · exact (hia.symm ▸ hxs : LeavesBelow arena (BitVec.ofNat 9 a.index).toNat xs).append _
    · exact (hib.symm ▸ hys : LeavesBelow arena (BitVec.ofNat 9 b.index).toNat ys).append _
  · exact hbelow.imp fun _ _ hl => hl.append _
  · simpa using hls

/-- The seeded leaves stand below themselves. -/
theorem State.seed_mergeOk (hne : s.seedLeaves ≠ []) : MergeOk s.seedLeaves (seedQueue s.seedLeaves) s.seedLeaves := by
  refine ⟨State.seed_arenaOk hne, ⟨[], (List.append_nil _).symm, fun _ h => nomatch h⟩,
    s.seedLeaves.map fun nd => [nd.sym], ?_, ?_⟩
  · rw [List.forall₂_iff_get]
    refine ⟨by simp, fun k hk hk' => ?_⟩
    rw [seedQueue_length] at hk
    obtain ⟨sym, w, hleaf⟩ := State.eq_ofLeaf_of_mem_seedLeaves (List.getElem_mem hk)
    simp only [List.get_eq_getElem, seedQueue_getElem, List.getElem_map]
    exact .leaf (List.getElem?_eq_getElem hk) (by rw [hleaf]; rfl)
  · rw [← List.flatMap_def, List.map_eq_flatMap]

/-- BUILD's loop ends with one node in the collection, the root (R143). -/
theorem State.treeArena_mergeOk (hne : s.seedLeaves ≠ []) : ∃ x, MergeOk s.seedLeaves [x] s.treeArena :=
  mergeAll_induction (fun _ _ _ h hp => h.perm hp) (fun _ _ _ _ h => h.merge s.seedLeaves_length_le _)
    (State.seed_mergeOk hne) (by simpa [seedQueue] using hne) (by simp)

/-- NNODES is 2 * NLEAVES - 1 (R29). -/
theorem State.treeArena_length (hne : s.seedLeaves ≠ []) : s.treeArena.length + 1 = 2 * s.seedLeaves.length := by
  obtain ⟨x, h⟩ := State.treeArena_mergeOk hne
  exact h.base.count

/-- All leaves stand below the root. -/
theorem State.treeArena_leavesBelow (hne : s.seedLeaves ≠ []) :
    ∃ syms, LeavesBelow s.treeArena (s.treeArena.length - 1) syms ∧ syms.Perm (s.seedLeaves.map Node.sym) := by
  obtain ⟨x, h⟩ := State.treeArena_mergeOk hne
  obtain ⟨y, hy, hlast⟩ := h.base.last
  obtain ⟨ls, hbelow, hls⟩ := h.below
  obtain ⟨l, ls, hl, hnil, rfl⟩ := List.forall₂_cons_left_iff.1 hbelow
  rw [List.forall₂_nil_left_iff.1 hnil, List.flatten_singleton] at hls
  rw [List.mem_singleton.1 hy] at hlast
  exact ⟨l, by rw [← hlast]; exact hl, hls⟩

/-- A path from the root has fewer edges than there are leaves (R146 item 4). -/
theorem State.treeArena_fits_leaves (hne : s.seedLeaves ≠ []) :
    Fits s.treeArena s.seedLeaves.length (s.treeArena.length - 1) := by
  obtain ⟨x, h⟩ := State.treeArena_mergeOk hne
  obtain ⟨y, hy, hlast⟩ := h.base.last
  obtain ⟨fs, hfits, hsum⟩ := h.base.fits
  obtain ⟨f, fs, hf, hnil, rfl⟩ := List.forall₂_cons_left_iff.1 hfits
  rw [List.forall₂_nil_left_iff.1 hnil, List.sum_singleton] at hsum
  rw [List.mem_singleton.1 hy] at hlast
  rw [← hlast, ← hsum]
  exact hf

/-- The root of two or more leaves is an internal node. -/
theorem State.treeArena_root_inner (htwo : 2 ≤ s.seedLeaves.length) {nd : Node}
    (hnd : s.treeArena[s.treeArena.length - 1]? = some nd) : nd.leaf = false := by
  have hne : s.seedLeaves ≠ [] := List.ne_nil_of_length_pos (by omega)
  have hlen := State.treeArena_length hne
  obtain ⟨x, h⟩ := State.treeArena_mergeOk hne
  obtain ⟨ns, hns, hinner⟩ := h.inner
  have hroot : s.seedLeaves.length ≤ s.treeArena.length - 1 := by omega
  refine hinner nd (List.mem_of_getElem? (i := s.treeArena.length - 1 - s.seedLeaves.length) ?_)
  rw [← List.getElem?_append_right hroot, ← hns]
  exact hnd

theorem Shape.ofLeaves_eq_general {n : Nat} : Shape.ofLeaves n = .general ↔ 2 ≤ n := by
  rcases n with _ | _ | n <;> simp [Shape.ofLeaves]

/-! ### The symbols of the leaves -/

theorem mem_allSymbols (sym : Byte) : sym ∈ allSymbols :=
  List.mem_map.2 ⟨sym.toNat, List.mem_range.2 sym.isLt, by rw [BitVec.ofNat_toNat, BitVec.setWidth_eq]⟩

theorem nodup_allSymbols : allSymbols.Nodup := by
  refine List.nodup_range.map_on fun j hj k hk h => ?_
  rw [← toNat_ofNat_of_mem_alphabet hj, h, toNat_ofNat_of_mem_alphabet hk]

theorem State.mem_presentSyms {sym : Byte} : sym ∈ s.presentSyms ↔ s.freqAt sym ≠ 0#32 := by
  simp [State.presentSyms, mem_allSymbols]

theorem State.nodup_presentSyms : s.presentSyms.Nodup :=
  nodup_allSymbols.filter _

/-- BUILD makes a leaf for each present symbol, in order (R144). -/
theorem State.seedLeaves_eq_map : s.seedLeaves = s.presentSyms.map fun sym => Node.ofLeaf sym (s.freqAt sym) := by
  unfold State.seedLeaves State.presentSyms allSymbols
  rw [List.filter_map, List.map_map, ← List.filterMap_eq_filter, List.map_filterMap]
  refine congrArg (List.filterMap · _) (funext fun k => ?_)
  by_cases h : s.freqAt (BitVec.ofNat 8 k) = 0#32 <;> simp [h, Option.guard]

theorem State.seedLeaves_map_sym : s.seedLeaves.map Node.sym = s.presentSyms := by
  rw [State.seedLeaves_eq_map, List.map_map]
  exact List.map_id _

/-! ## The tree in NODE and the walk -/

theorem State.TreeOk.two_le (h : s.TreeOk) (hg : s.shape = .general) : 2 ≤ s.seedLeaves.length :=
  Shape.ofLeaves_eq_general.1 ((h.2 (by simp [hg])).1.symm.trans hg)

/-- ROOT of a general tree is a valid entry and an internal node. -/
theorem State.TreeOk.root_inner (h : s.TreeOk) (hg : s.shape = .general) :
    s.root.toNat < s.nnodes.toNat ∧ (s.nodeEntry s.root.toNat).leaf = false := by
  have hn : s.shape ≠ .none := by simp [hg]
  have hroot := h.root_lt hn (by simp [hg])
  refine ⟨hroot, State.treeArena_root_inner (h.two_le hg) ?_⟩
  rw [← (h.2 hn).2.2.2.1]
  exact h.getElem? hroot

theorem State.TreeOk.of_none (hs : s.shape = .none) (hl : s.nleaves = 0#9) (hn : s.nnodes = 0#10) (hr : s.root = 0#9) :
    s.TreeOk :=
  ⟨fun _ => ⟨hl, hn, hr⟩, fun hne => absurd hs hne⟩

/-- With no tree, as in IDLE, a change of FREQ breaks none. -/
theorem State.TreeOk.of_setFreq (h : s.TreeOk) (hs : s.shape = .none) (sym : Byte) (v total : Count) :
    State.TreeOk { s.setFreq sym v with total := total } :=
  have ⟨hl, hn, hr⟩ := h.1 hs
  .of_none hs hl hn hr

/-- BUILD's registers count its arena, which stands in NODE. -/
theorem State.treeOk_withTree (hwf : Memory.wf Node.blank Config.nodeCap s.node = true) : s.withTree.TreeOk := by
  refine ⟨fun hs => absurd hs (Shape.ofLeaves_ne_none _), fun _ => ⟨rfl, ?_, s.withTree_nnodes_toNat, ?_, fun k hk => ?_⟩⟩
  · have : s.seedLeaves.length ≤ 256 := s.seedLeaves_length_le
    rw [State.withTree_nleaves, BitVec.toNat_ofNat, Nat.mod_eq_of_lt (by omega)]
    rfl
  · have : s.treeArena.length ≤ 511 := s.treeArena_length_le
    rw [State.withTree_root, BitVec.toNat_ofNat, Nat.mod_eq_of_lt (by omega)]
    rfl
  · exact State.treeArena_getElem?_eq_withTree hwf (by rw [State.withTree_nnodes_toNat]; exact hk)

theorem Effect.keeps_treeOk {i : Instr} (he : Effect i s u) (hm : s.MemOk) (hp : s.PhaseOk) (h : s.TreeOk) : u.TreeOk := by
  cases he with
  | clr => exact .of_none rfl rfl rfl rfl
  | facc _ sym hidle _ => exact h.of_setFreq (hp.1 hidle).1 sym _ _
  | fset _ sym v hidle _ => exact h.of_setFreq (hp.1 hidle).1 sym v _
  | build => exact State.treeOk_withTree hm.2.1
  | encb _ _ _ _ _ _ hu => rw [packCode_frame hu]; exact h
  | encf _ _ _ hu => obtain ⟨-, rfl⟩ | ⟨-, -, rfl⟩ := State.flush_ok hu <;> exact h
  | decb _ _ _ _ _ hu => rw [unpackByte_frame hu]; exact h
  | _ => exact h

/-- WALK at ROOT is in the tree. -/
theorem State.TreeOk.walkInTree (h : s.TreeOk) (hw : s.walk = s.root) : s.WalkInTree := fun hg => by
  rw [hw]
  exact h.root_inner hg

theorem State.WalkInTree.of_unpackBit {bit : Bool} (ht : s.TreeOk) (h : s.WalkInTree) (hu : s.unpackBit bit = .ok t) :
    t.WalkInTree := by
  obtain rfl | ⟨-, ⟨-, he⟩ | ⟨-, hw⟩⟩ := State.unpackBit_ok hu
  · exact h
  · obtain ⟨-, rfl⟩ := State.emit_ok he
    exact h
  · obtain ⟨here, nxt, hhere, hnxt, ⟨hleaf, rfl⟩ | ⟨-, -, rfl⟩⟩ := State.walkBit_ok hw
    · intro hg
      have hin := (h hg).1
      have hchild := ht.child_lt hin bit
      obtain rfl : s.nodeEntry s.walk.toNat = here := Option.some.inj ((ht.nodeAt hin).symm.trans hhere)
      obtain rfl : s.nodeEntry _ = nxt := Option.some.inj ((ht.nodeAt hchild).symm.trans hnxt)
      exact ⟨hchild, hleaf⟩
    · exact ht.root_inner

theorem State.WalkInTree.of_unpackByte {b : Byte} {i : Nat} (ht : s.TreeOk) (h : s.WalkInTree)
    (hu : unpackByte b i s = .ok t) : t.WalkInTree := by
  induction i generalizing s with
  | zero => cases hu; exact h
  | succ i ih =>
    rw [unpackByte] at hu
    split at hu
    · rename_i v hbit
      have hfr := State.unpackBit_frame hbit
      exact ih (by rw [hfr]; exact ht) (h.of_unpackBit ht hbit) hu
    · cases hu

theorem Effect.keeps_walkInTree {i : Instr} (he : Effect i s u) (hm : s.MemOk) (ht : s.TreeOk) (h : s.WalkInTree) :
    u.WalkInTree := by
  cases he with
  | clr => exact fun hg => nomatch hg
  | sess => exact State.TreeOk.walkInTree (s := s.endSession) ht rfl
  | build => exact (State.treeOk_withTree hm.2.1).walkInTree rfl
  | encb _ _ _ _ _ _ hu => rw [packCode_frame hu]; exact h
  | encf _ _ _ hu => obtain ⟨-, rfl⟩ | ⟨-, -, rfl⟩ := State.flush_ok hu <;> exact h
  | decs => exact fun hg => ht.root_inner hg
  | decb _ _ _ _ _ hu => exact h.of_unpackByte ht hu
  | _ => exact h

/-! ## The code table of the tree -/

theorem State.visit_congr (h : t.node = s.node) (f : Nat) (i : NodeIdx) (len val : Nat) :
    t.visit f i len val = s.visit f i len val := by
  have hat : ∀ k, t.nodeAt k = s.nodeAt k := fun k => by unfold State.nodeAt; rw [h]
  induction f generalizing i len val with
  | zero => rfl
  | succ f ih => simp only [State.visit, hat, ih]

/-- The codes are made from SHAPE, ROOT and NODE alone. -/
theorem State.treeCodes_congr (hs : t.shape = s.shape) (hr : t.root = s.root) (hn : t.node = s.node) :
    t.treeCodes = s.treeCodes := by
  unfold State.treeCodes
  rw [hs, hr, hn, State.visit_congr hn]

theorem State.CodesOk.congr (h : s.CodesOk) (hcv : t.cv = s.cv) (hs : t.shape = s.shape) (hr : t.root = s.root)
    (hn : t.node = s.node) (hl : t.clen = s.clen) (hb : t.cbits = s.cbits) : t.CodesOk := by
  rw [State.CodesOk, hcv, State.treeCodes_congr hs hr hn, hl, hb]
  exact h

theorem State.CodesOk.of_cv_false (h : s.cv = false) : s.CodesOk := fun hcv => by
  rw [h] at hcv
  cases hcv

theorem State.codesOk_withCodes {codes : List CodeEntry} (h : s.treeCodes = .ok codes) : (s.withCodes codes).CodesOk := by
  have hsame : (s.withCodes codes).treeCodes = s.treeCodes := State.treeCodes_congr rfl rfl rfl
  exact fun _ => ⟨codes, hsame.trans h, rfl, rfl⟩

theorem Effect.keeps_codesOk {i : Instr} (he : Effect i s u) (hp : s.PhaseOk) (h : s.CodesOk) : u.CodesOk := by
  cases he with
  | clr => exact .of_cv_false rfl
  | build _ hidle => exact .of_cv_false (hp.1 hidle).2
  | genc _ _ _ hc => exact State.codesOk_withCodes hc
  | encb _ _ _ _ _ _ hu => rw [packCode_frame hu]; exact h.congr rfl rfl rfl rfl rfl rfl
  | encf _ _ _ hu =>
    obtain ⟨-, rfl⟩ | ⟨-, -, rfl⟩ := State.flush_ok hu <;> exact h.congr rfl rfl rfl rfl rfl rfl
  | decb _ _ _ _ _ hu => rw [unpackByte_frame hu]; exact h.congr rfl rfl rfl rfl rfl rfl
  | _ => exact h.congr rfl rfl rfl rfl rfl rfl

/-! ## The whole invariant -/

theorem State.Inv.regsOk (h : s.Inv) : s.RegsOk :=
  ⟨h.phase, h.session, h.bounds, h.packer, h.done, h.walk⟩

theorem State.RegsOk.inv (h : s.RegsOk) (hmem : s.MemOk) (htotal : s.TotalOk) (htree : s.TreeOk) (hwalk : s.WalkInTree)
    (hcodes : s.CodesOk) : s.Inv :=
  have ⟨hphase, hsession, hbounds, hpacker, hdone, hroot⟩ := h
  ⟨hmem, htotal, hphase, hsession, hbounds, hpacker, hdone, hroot, htree, hwalk, hcodes⟩

/-- Reset meets the invariant in every part that has room for a byte (R5, R53). -/
theorem State.inv_hwReset (h : 1 ≤ s.outcap.toNat) : s.hwReset.Inv := by
  have hregs : s.hwReset.RegsOk := by
    rw [State.regsOk_iff]
    simp [h]
  exact hregs.inv s.memOk_hwReset (State.freqSum_nil rfl).symm (.of_none rfl rfl rfl rfl) (fun hg => nomatch hg)
    (.of_cv_false rfl)

/-- Settles O55: the state is one that `rst` leaves, with OUTBUF_CAP at least 1. -/
theorem resetMeetsTheInvariant : Obligations.ResetMeetsTheInvariant :=
  fun acts => State.inv_hwReset (s := { State.reset with port := { State.reset.port with host := acts } }) one_le_outbufCap

theorem State.Inv.of_onPort (h : s.Inv) (p : Port) : (s.onPort p).Inv :=
  State.RegsOk.inv (s := s.onPort p) h.regsOk h.mem h.total h.tree h.walkInTree (h.codes.congr rfl rfl rfl rfl rfl rfl)

/-- The fatal-error entry leaves the tables and the walk as they are (R245). -/
theorem State.Inv.of_raiseFatal (h : s.Inv) (c : FatalCode) : (s.raiseFatal c).Inv :=
  (h.regsOk.of_raiseFatal c).inv h.mem h.total h.tree h.walkInTree (h.codes.congr rfl rfl rfl rfl rfl rfl)

theorem Effect.keeps_inv {i : Instr} (he : Effect i s u) (h : s.Inv) : u.Inv :=
  (he.keeps_regsOk h.regsOk).inv (he.keeps_memOk h.mem) (he.keeps_totalOk h.mem h.total)
    (he.keeps_treeOk h.mem h.phase h.tree) (he.keeps_walkInTree h.mem h.tree h.walkInTree) (he.keeps_codesOk h.phase h.codes)

theorem State.Inv.of_exec {i : Instr} (h : s.Inv) (hx : exec i s = .next t) : t.Inv :=
  exec_keeps (fun _ p h => h.of_onPort p) (fun _ c h => h.of_raiseFatal c) (fun _ _ _ he h => he.keeps_inv h) h hx

/-- Settles O59: ports, the fatal-error entry, every effect and reset keep the invariant, item by item. -/
theorem stepKeepsTheInvariant : Obligations.StepKeepsTheInvariant :=
  fun _ _ h hstep => step_keeps (fun _ p h => h.of_onPort p) (fun _ c h => h.of_raiseFatal c)
    (fun _ _ _ he h => he.keeps_inv h) (fun _ h => State.inv_hwReset h.bounds.2.2.2) h hstep

/-! ## Paths to leaves -/

/-- The bits of `p` lead from node `i` through internal nodes to a leaf, which has the symbol `sym`. -/
def State.LeafPath (s : State) : (i : NodeIdx) → (p : List Bool) → (sym : Byte) → Prop
  | i, [], sym => (s.nodeEntry i.toNat).leaf = true ∧ (s.nodeEntry i.toNat).sym = sym
  | i, bit :: p, sym => (s.nodeEntry i.toNat).leaf = false ∧ s.LeafPath (s.follow i bit) p sym

/-- A path ends at its leaf. -/
theorem State.LeafPath.followAll {i : NodeIdx} {p : List Bool} {sym : Byte} (h : s.LeafPath i p sym) :
    (s.nodeEntry (s.followAll i p).toNat).leaf = true ∧ (s.nodeEntry (s.followAll i p).toNat).sym = sym := by
  induction p generalizing i with
  | nil => exact h
  | cons bit p ih => exact ih h.2

/-- Before its end a path is at an internal node. -/
theorem State.LeafPath.followAll_inner {i : NodeIdx} {p q : List Bool} {sym : Byte} (h : s.LeafPath i p sym)
    (hq : q <+: p) (hne : q ≠ p) : (s.nodeEntry (s.followAll i q).toNat).leaf = false := by
  induction p generalizing i q with
  | nil => exact absurd (List.prefix_nil.1 hq) hne
  | cons bit p ih =>
    cases q with
    | nil => exact h.1
    | cons b q =>
      obtain ⟨rfl, hqp⟩ := List.cons_prefix_cons.1 hq
      exact ih (i := s.follow i b) (q := q) h.2 hqp fun he => hne (congrArg _ he)

/-- A path that another begins with is the other: there is one leaf where it ends. -/
theorem State.LeafPath.sym_unique {i : NodeIdx} {p q : List Bool} {x y : Byte} (hp : s.LeafPath i p x)
    (hq : s.LeafPath i q y) (h : p <+: q) : x = y := by
  by_cases he : p = q
  · subst he
    exact hp.followAll.2.symm.trans hq.followAll.2
  · exact absurd hp.followAll.1 (by simp [hq.followAll_inner h he])

/-- In a tree that fits, a path has no more edges than its fuel allows. -/
theorem State.LeafPath.length_lt {i : NodeIdx} {p : List Bool} {sym : Byte} {f : Nat} (ht : s.TreeOk)
    (hn : s.shape ≠ .none) (hf : Fits s.treeArena f i.toNat) (h : s.LeafPath i p sym) : p.length < f := by
  induction p generalizing i f with
  | nil => exact hf.pos
  | cons bit p ih =>
    have hi := ht.lt_of_fits hn hf
    cases f with
    | zero => cases hf
    | succ f =>
      obtain ⟨nd, hnd, hsub⟩ := hf
      obtain rfl : s.nodeEntry i.toNat = nd := Option.some.inj ((ht.getElem? hi).symm.trans hnd)
      obtain ⟨hleft, hright⟩ := hsub.resolve_left (by simp [h.1])
      have hchild : Fits s.treeArena f (s.follow i bit).toNat := by
        cases bit
        · exact hleft
        · exact hright
      exact Nat.succ_lt_succ (ih hchild h.2)

/-! ### A path as a number -/

/-- The path so far as the number `val`, and then the bits `p` (R160). -/
def pathVal (val : Nat) (p : List Bool) : Nat :=
  p.foldl (fun v bit => 2 * v + bit.toNat) val

/-- The bits appended stand below the path so far. -/
theorem pathVal_div (val : Nat) (p : List Bool) : pathVal val p / 2 ^ p.length = val := by
  induction p generalizing val with
  | nil => exact Nat.div_one val
  | cons bit p ih =>
    have hbit := bit.toNat_lt
    rw [List.length_cons, Nat.pow_succ, ← Nat.div_div_eq_div_mul]
    refine (congrArg (· / 2) (ih (2 * val + bit.toNat))).trans ?_
    omega

theorem pathVal_zero_lt (p : List Bool) : pathVal 0 p < 2 ^ p.length :=
  (Nat.div_eq_zero_iff_lt (Nat.two_pow_pos _)).1 (pathVal_div 0 p)

/-- The low bits of the number are the path, first bit first (R8). -/
theorem lowBits_pathVal {w : Nat} (val : Nat) {p : List Bool} (h : p.length ≤ w) :
    lowBits (BitVec.ofNat w (pathVal val p)) p.length = p := by
  induction p generalizing val with
  | nil => rfl
  | cons bit p ih =>
    rw [List.length_cons] at h
    have htop : (pathVal (2 * val + bit.toNat) p).testBit p.length = bit := by
      have hdiv := pathVal_div (2 * val + bit.toNat) p
      rw [Nat.testBit_eq_decide_div_mod_eq, hdiv]
      cases bit <;> simp
    have hlow := ih (2 * val + bit.toNat) (by omega)
    rw [List.length_cons, lowBits, BitVec.getLsbD_ofNat]
    change (decide (p.length < w) && (pathVal (2 * val + bit.toNat) p).testBit p.length) :: lowBits _ p.length = _
    rw [htop, decide_eq_true (by omega), Bool.true_and]
    exact congrArg _ hlow

/-! ## GENC's walk -/

/-- What GENC's walk makes at a node: the code of a leaf, or the codes of both subtrees (R160). -/
theorem State.visit_ok_cases {f : Nat} {i : NodeIdx} {len val : Nat} {codes : List CodeEntry}
    (h : s.visit (f + 1) i len val = .ok codes) :
    ((s.nodeEntry i.toNat).leaf = true ∧
      codes = [⟨(s.nodeEntry i.toNat).sym, BitVec.ofNat 8 len, BitVec.ofNat 255 val⟩]) ∨
    ((s.nodeEntry i.toNat).leaf = false ∧ ∃ ls rs, s.visit f (s.follow i false) (len + 1) (2 * val) = .ok ls ∧
      s.visit f (s.follow i true) (len + 1) (2 * val + 1) = .ok rs ∧ codes = ls ++ rs) := by
  rw [State.visit] at h
  split at h
  · cases h
  · rename_i nd hnd
    obtain rfl : s.nodeEntry i.toNat = nd := by
      unfold State.nodeAt at hnd
      split at hnd
      · exact Option.some.inj hnd
      · cases hnd
    split at h
    · cases h
      exact .inl ⟨‹_›, rfl⟩
    · rename_i hleaf
      split at h
      · cases h
      · rename_i ls hls
        split at h
        · cases h
        · rename_i rs hrs
          cases h
          exact .inr ⟨by simpa using hleaf, ls, rs, hls, hrs, rfl⟩

/-- Every entry of the walk's table is a path from the walk's node to a leaf, appended to the path so far. -/
theorem State.visit_leafPath {f : Nat} {i : NodeIdx} {len val : Nat} {codes : List CodeEntry}
    (h : s.visit f i len val = .ok codes) :
    ∀ e ∈ codes, ∃ p, s.LeafPath i p e.sym ∧ p.length < f ∧
      e.len = BitVec.ofNat 8 (len + p.length) ∧ e.bits = BitVec.ofNat 255 (pathVal val p) := by
  induction f generalizing i len val codes with
  | zero => cases h
  | succ f ih =>
    intro e he
    obtain ⟨hleaf, rfl⟩ | ⟨hinner, ls, rs, hls, hrs, rfl⟩ := State.visit_ok_cases h
    · rw [List.mem_singleton.1 he]
      exact ⟨[], ⟨hleaf, rfl⟩, Nat.succ_pos f, rfl, rfl⟩
    · rcases List.mem_append.1 he with hl | hr
      · obtain ⟨p, hp, hlt, hlen, hbits⟩ := ih hls e hl
        refine ⟨false :: p, ⟨hinner, hp⟩, Nat.succ_lt_succ hlt, ?_, hbits⟩
        rw [hlen, List.length_cons, Nat.add_assoc, Nat.add_comm 1]
      · obtain ⟨p, hp, hlt, hlen, hbits⟩ := ih hrs e hr
        refine ⟨true :: p, ⟨hinner, hp⟩, Nat.succ_lt_succ hlt, ?_, hbits⟩
        rw [hlen, List.length_cons, Nat.add_assoc, Nat.add_comm 1]

/-- The walk meets the leaves below its node, from left to right. -/
theorem State.TreeOk.visit_syms (ht : s.TreeOk) (hn : s.shape ≠ .none) {f : Nat} {i : NodeIdx} {len val : Nat}
    {codes : List CodeEntry} {syms : List Byte} (hb : LeavesBelow s.treeArena i.toNat syms)
    (h : s.visit f i len val = .ok codes) : codes.map CodeEntry.sym = syms := by
  have hentry : ∀ {k : Nat} {nd : Node}, s.treeArena[k]? = some nd → nd = s.nodeEntry k := fun {k nd} hk => by
    have hlt : k < s.nnodes.toNat := by
      rw [(ht.2 hn).2.2.1]
      exact (List.getElem?_eq_some_iff.1 hk).1
    exact Option.some.inj (hk.symm.trans (ht.getElem? hlt))
  induction f generalizing i len val codes syms with
  | zero => cases h
  | succ f ih =>
    cases hb with
    | leaf hi hl =>
      obtain rfl := hentry hi
      obtain ⟨-, rfl⟩ | ⟨hinner, -⟩ := State.visit_ok_cases h
      · rfl
      · simp [hl] at hinner
    | inner hi hl hleft hright =>
      obtain rfl := hentry hi
      obtain ⟨hleaf, -⟩ | ⟨-, ls, rs, hls, hrs, rfl⟩ := State.visit_ok_cases h
      · simp [hl] at hleaf
      · rw [List.map_append, ih hleft hls, ih hright hrs]

/-- A walk's share of Kraft's sum is the share of its own path: each subtree has half of it. -/
theorem State.visit_kraft {f : Nat} {i : NodeIdx} {len val : Nat} {codes : List CodeEntry}
    (h : s.visit f i len val = .ok codes) (hlen : len + f = Config.maxLen + 1) :
    (codes.map fun e => 2 ^ (255 - e.len.toNat)).sum = 2 ^ (255 - len) := by
  induction f generalizing i len val codes with
  | zero => cases h
  | succ f ih =>
    simp only [Config.maxLen] at hlen ih
    obtain ⟨-, rfl⟩ | ⟨-, ls, rs, hls, hrs, rfl⟩ := State.visit_ok_cases h
    · rw [List.map_singleton, List.sum_singleton, BitVec.toNat_ofNat, Nat.mod_eq_of_lt (by omega)]
    · have hpos : f ≠ 0 := fun h0 => by
        subst h0
        cases hls
      rw [List.map_append, List.sum_append, ih hls (by omega), ih hrs (by omega), ← Nat.two_mul, ← Nat.pow_succ']
      congr 1
      omega

/-! ## CLEN and CBITS -/

/-- What CLEN and CBITS hold of a symbol: its last entry in the table, or zeros where it has none. -/
theorem codeTable_cases (codes : List CodeEntry) (sym : Byte) :
    (∃ e ∈ codes, e.sym = sym ∧ Memory.read 0#8 (codeLens codes) sym.toNat = e.len ∧
      Memory.read 0#255 (codeWords codes) sym.toNat = e.bits) ∨
    ((∀ e ∈ codes, e.sym ≠ sym) ∧ Memory.read 0#8 (codeLens codes) sym.toNat = 0#8 ∧
      Memory.read 0#255 (codeWords codes) sym.toNat = 0#255) := by
  induction codes using List.reverseRecOn with
  | nil => exact .inr ⟨fun _ he => (List.not_mem_nil he).elim, rfl, rfl⟩
  | append_singleton codes e ih =>
    have hlens : codeLens (codes ++ [e]) = Memory.write 0#8 (codeLens codes) e.sym.toNat e.len :=
      List.foldl_concat ..
    have hwords : codeWords (codes ++ [e]) = Memory.write 0#255 (codeWords codes) e.sym.toNat e.bits :=
      List.foldl_concat ..
    rw [hlens, hwords]
    by_cases he : e.sym = sym
    · subst he
      exact .inl ⟨e, List.mem_concat_self, rfl, Memory.read_write_same (wf_codeLens codes),
        Memory.read_write_same (wf_codeWords codes)⟩
    · have hne : sym.toNat ≠ e.sym.toNat := fun h => he (BitVec.eq_of_toNat_eq h.symm)
      rw [Memory.read_write_other hne, Memory.read_write_other hne]
      obtain ⟨e', hmem, heq⟩ | ⟨hnone, heq⟩ := ih
      · exact .inl ⟨e', List.mem_append_left _ hmem, heq⟩
      · refine .inr ⟨fun e' hmem => ?_, heq⟩
        rcases List.mem_append.1 hmem with hold | hnew
        · exact hnone e' hold
        · rw [List.mem_singleton.1 hnew]
          exact he

/-- A sum over CLEN is the sum over the table, where no symbol stands in it twice and no code has length 0's share. -/
theorem sum_map_codeLens (g : BitVec 8 → Nat) (hg : g 0#8 = 0) {codes : List CodeEntry}
    (hnodup : (codes.map CodeEntry.sym).Nodup) :
    ((List.range Config.alphabet).map fun k => g (Memory.read 0#8 (codeLens codes) k)).sum =
      (codes.map fun e => g e.len).sum := by
  induction codes using List.reverseRecOn with
  | nil => simp [codeLens, hg]
  | append_singleton codes e ih =>
    have hlens : codeLens (codes ++ [e]) = Memory.write 0#8 (codeLens codes) e.sym.toNat e.len :=
      List.foldl_concat ..
    rw [List.map_append, List.map_singleton, List.nodup_append] at hnodup
    obtain ⟨hnodup, -, hnew⟩ := hnodup
    have hread : Memory.read 0#8 (codeLens codes) e.sym.toNat = 0#8 := by
      obtain ⟨e', hmem, hsym, -⟩ | ⟨-, h0, -⟩ := codeTable_cases codes e.sym
      · exact absurd hsym (hnew _ (List.mem_map_of_mem hmem) _ (List.mem_singleton_self _))
      · exact h0
    have hsum := Memory.sum_map_write g (v := e.len) (wf_codeLens codes) e.sym.isLt
    rw [hread, hg, Nat.add_zero, ih hnodup] at hsum
    rw [hlens, List.map_append, List.sum_append, List.map_singleton, List.sum_singleton]
    exact hsum

/-! ## The code table of a general tree -/

/-- A general tree and its code table: the codes that GENC's walk from ROOT makes, in CLEN and CBITS. -/
structure State.Coded (s : State) (codes : List CodeEntry) : Prop where
  tree : s.TreeOk
  shape : s.shape = .general
  walk : s.visit (Config.maxLen + 1) s.root 0 0 = .ok codes
  clen : s.clen = codeLens codes
  cbits : s.cbits = codeWords codes

theorem State.Inv.coded (h : s.Inv) (hcv : s.cv = true) (hg : s.shape = .general) : ∃ codes, s.Coded codes := by
  obtain ⟨codes, hcodes, hclen, hcbits⟩ := h.codes hcv
  rw [State.treeCodes, hg] at hcodes
  exact ⟨codes, h.tree, hg, hcodes, hclen, hcbits⟩

section
variable {codes : List CodeEntry} (h : s.Coded codes)
include h

/-- Every entry is a path from ROOT to its symbol's leaf, of at least one bit. -/
theorem State.Coded.leafPath {e : CodeEntry} (he : e ∈ codes) :
    ∃ p, s.LeafPath s.root p e.sym ∧ e.len.toNat = p.length ∧ 0 < p.length ∧ p.length ≤ Config.maxLen ∧
      e.bits = BitVec.ofNat 255 (pathVal 0 p) := by
  obtain ⟨p, hp, hlt, hlen, hbits⟩ := State.visit_leafPath h.walk e he
  have hroot := (h.tree.root_inner h.shape).2
  have hpos : 0 < p.length := List.length_pos_iff.2 fun h0 => by
    rw [h0] at hp
    simp [hp.1] at hroot
  simp only [Config.maxLen] at hlt ⊢
  refine ⟨p, hp, ?_, hpos, by omega, hbits⟩
  rw [hlen, Nat.zero_add, BitVec.toNat_ofNat, Nat.mod_eq_of_lt (by omega)]

/-- The symbols of the table are the present ones, each once. -/
theorem State.Coded.syms_perm : (codes.map CodeEntry.sym).Perm s.presentSyms := by
  have hn : s.shape ≠ .none := by simp [h.shape]
  obtain ⟨syms, hbelow, hperm⟩ := State.treeArena_leavesBelow (h.tree.seedLeaves_ne_nil hn (by simp [h.shape]))
  rw [← (h.tree.2 hn).2.2.2.1] at hbelow
  rw [h.tree.visit_syms hn hbelow h.walk, ← State.seedLeaves_map_sym]
  exact hperm

theorem State.Coded.codeTable_cases (sym : Byte) :
    (∃ e ∈ codes, e.sym = sym ∧ s.clenAt sym = e.len ∧ s.cbitsAt sym = e.bits) ∨
      ((∀ e ∈ codes, e.sym ≠ sym) ∧ s.clenAt sym = 0#8 ∧ s.cbitsAt sym = 0#255) := by
  unfold State.clenAt State.cbitsAt
  rw [h.clen, h.cbits]
  exact Machine.codeTable_cases codes sym

/-- The symbols with a code are those in the table. -/
theorem State.Coded.clenAt_ne_zero_iff {sym : Byte} : s.clenAt sym ≠ 0#8 ↔ ∃ e ∈ codes, e.sym = sym := by
  obtain ⟨e, he, hsym, hlen, -⟩ | ⟨hnone, hlen, -⟩ := h.codeTable_cases sym
  · obtain ⟨p, -, hp, hpos, -⟩ := h.leafPath he
    refine iff_of_true (fun h0 => ?_) ⟨e, he, hsym⟩
    rw [← hlen, h0, BitVec.toNat_zero] at hp
    omega
  · exact iff_of_false (not_not.2 hlen) fun ⟨e, he, hsym⟩ => hnone e he hsym

theorem State.Coded.clenAt_ne_zero_iff_freqAt {sym : Byte} : s.clenAt sym ≠ 0#8 ↔ s.freqAt sym ≠ 0#32 := by
  rw [h.clenAt_ne_zero_iff, ← List.mem_map (f := CodeEntry.sym), h.syms_perm.mem_iff, State.mem_presentSyms]

/-- CBITS holds nothing above a code, and nothing where there is none (R49). -/
theorem State.Coded.cbitsAt_lt (sym : Byte) : (s.cbitsAt sym).toNat < 2 ^ (s.clenAt sym).toNat := by
  obtain ⟨e, he, rfl, hlen, hbits⟩ | ⟨-, -, hbits⟩ := h.codeTable_cases sym
  · obtain ⟨p, -, hplen, -, -, hpbits⟩ := h.leafPath he
    rw [hlen, hbits, hplen, hpbits, BitVec.toNat_ofNat]
    exact Nat.lt_of_le_of_lt (Nat.mod_le _ _) (pathVal_zero_lt p)
  · rw [hbits]
    exact Nat.two_pow_pos _

/-- A symbol's code is the path from ROOT to its leaf. -/
theorem State.Coded.codeOf_leafPath {sym : Byte} (hne : s.clenAt sym ≠ 0#8) : s.LeafPath s.root (s.codeOf sym) sym := by
  obtain ⟨e, he, rfl, hlen, hbits⟩ | ⟨-, h0, -⟩ := h.codeTable_cases sym
  · obtain ⟨p, hp, hplen, -, hmax, hpbits⟩ := h.leafPath he
    rw [State.codeOf, hlen, hbits, hplen, hpbits, lowBits_pathVal 0 hmax]
    exact hp
  · exact absurd h0 hne

/-- A code is shorter than the number of leaves (R163 item 2). -/
theorem State.Coded.clenAt_le (sym : Byte) : (s.clenAt sym).toNat ≤ s.nleaves.toNat - 1 := by
  have hn : s.shape ≠ .none := by simp [h.shape]
  by_cases h0 : s.clenAt sym = 0#8
  · rw [h0]
    exact Nat.zero_le _
  · have hfits := State.treeArena_fits_leaves (h.tree.seedLeaves_ne_nil hn (by simp [h.shape]))
    rw [← (h.tree.2 hn).2.2.2.1, ← (h.tree.2 hn).2.1] at hfits
    have hlt := (h.codeOf_leafPath h0).length_lt h.tree hn hfits
    rw [State.codeOf, lowBits_length] at hlt
    exact Nat.le_sub_one_of_lt hlt

end

/-- GENC in BUILT, where the tree has its codes. -/
theorem exec_genc_built {codes : List CodeEntry} (hp : s.phase = .built) (hc : s.treeCodes = .ok codes) :
    exec .genc s = .next ((s.withCodes codes).respond 0#40) := by
  simp only [exec, execGenc, hp, beq_self_eq_true, hc, State.command_true, State.finish_ok]

/-- Settles O29: the state after GENC meets the invariant with CV = 1, and FREQ and the tree are those before it. -/
theorem gencCodesArePathsToLeaves : Obligations.GencCodesArePathsToLeaves := by
  intro s t hi hp hg hx sym
  have ht := hi.of_exec hx
  obtain ⟨codes₀, hcodes⟩ := hi.tree.treeCodes_ok
  rw [exec_genc_built hp hcodes] at hx
  cases hx
  obtain ⟨codes, h⟩ := ht.coded rfl hg
  refine ⟨h.clenAt_ne_zero_iff_freqAt, h.clenAt_le sym, h.cbitsAt_lt sym, fun hne => ?_⟩
  have hpath := h.codeOf_leafPath hne
  exact ⟨hpath.followAll.1, hpath.followAll.2, fun _ hp hne => hpath.followAll_inner hp hne⟩

/-- A tree that is not general has one code or none (R162). -/
theorem State.treeCodes_unique (hg : s.shape ≠ .general) {codes : List CodeEntry} (h : s.treeCodes = .ok codes)
    {e e' : CodeEntry} (he : e ∈ codes) (he' : e' ∈ codes) : e = e' := by
  unfold State.treeCodes at h
  split at h
  · cases h
    exact (List.mem_singleton.1 he).trans (List.mem_singleton.1 he').symm
  · exact absurd ‹_› hg
  all_goals
    cases h
    cases he

/-- Settles O30: a path to one leaf does not begin a path to another, and a tree that is not general codes one symbol. -/
theorem codesArePrefixFree : Obligations.CodesArePrefixFree := by
  intro s hi hcv x y hne hx hy hpre
  by_cases hg : s.shape = .general
  · obtain ⟨codes, h⟩ := hi.coded hcv hg
    exact hne ((h.codeOf_leafPath hx).sym_unique (h.codeOf_leafPath hy) hpre)
  · obtain ⟨codes, hcodes, hclen, -⟩ := hi.codes hcv
    have hmem : ∀ sym, s.clenAt sym ≠ 0#8 → ∃ e ∈ codes, e.sym = sym := fun sym hs => by
      obtain ⟨e, he, hsym, -⟩ | ⟨-, h0, -⟩ := codeTable_cases codes sym
      · exact ⟨e, he, hsym⟩
      · exact absurd (by rw [State.clenAt, hclen, h0]) hs
    obtain ⟨e, he, rfl⟩ := hmem x hx
    obtain ⟨e', he', rfl⟩ := hmem y hy
    exact hne (congrArg _ (State.treeCodes_unique hg hcodes he he'))

/-- What a code length adds to Kraft's sum, times 2^255; an absent code adds nothing. -/
def kraftShare (len : BitVec 8) : Nat :=
  if len.toNat = 0 then 0 else 2 ^ (255 - len.toNat)

/-- Settles O31: the walk's share from ROOT is the whole sum, and no symbol is counted twice. -/
theorem codeLengthsMeetKraftEquality : Obligations.CodeLengthsMeetKraftEquality := by
  intro s hi hcv hg
  obtain ⟨codes, h⟩ := hi.coded hcv hg
  have hread : ∀ k ∈ List.range 256,
      kraftShare (s.clenAt (BitVec.ofNat 8 k)) = kraftShare (Memory.read 0#8 (codeLens codes) k) := fun k hk => by
    rw [State.clenAt, h.clen, toNat_ofNat_of_mem_alphabet hk]
  have hshare : ∀ e ∈ codes, kraftShare e.len = 2 ^ (255 - e.len.toNat) := fun e he => by
    obtain ⟨p, -, hlen, hpos, -⟩ := h.leafPath he
    exact if_neg (by omega)
  calc ((List.range 256).map fun k => kraftShare (s.clenAt (BitVec.ofNat 8 k))).sum
    _ = ((List.range 256).map fun k => kraftShare (Memory.read 0#8 (codeLens codes) k)).sum := by
      rw [List.map_congr_left hread]
    _ = (codes.map fun e => kraftShare e.len).sum :=
      sum_map_codeLens kraftShare rfl (h.syms_perm.nodup_iff.2 State.nodup_presentSyms)
    _ = (codes.map fun e => 2 ^ (255 - e.len.toNat)).sum := by rw [List.map_congr_left hshare]
    _ = 2 ^ 255 := State.visit_kraft h.walk rfl

end Sys2Proof.Machine

namespace Sys2Proof.Machine

variable {s t u : State}

/-! ## Reading the output -/

/-- A byte of the output is an entry of OUTBUF below OUTLEN. -/
theorem State.outBytes_getElem?_eq_some {k : Nat} {b : Byte} (h : s.outBytes[k]? = some b) :
    k < s.outlen.toNat ∧ Memory.read 0#8 s.outbuf k = b := by
  unfold State.outBytes at h
  rw [List.getElem?_map, Option.map_eq_some_iff] at h
  obtain ⟨j, hj, hb⟩ := h
  obtain ⟨hlt, rfl⟩ := List.getElem?_eq_some_iff.1 hj
  rw [List.length_range] at hlt
  rw [List.getElem_range] at hb
  exact ⟨hlt, hb⟩

/-- Settles O17: a byte at RDPTR is below OUTLEN, and so within OUTBUF. -/
theorem rdoutReadsTheNextByte : Obligations.RdoutReadsTheNextByte := by
  refine fun s => ⟨fun b hp hcap hb => ?_, fun hp hend => ?_, fun hp => ?_⟩
  · obtain ⟨hlt, hread⟩ := State.outBytes_getElem?_eq_some hb
    have hne : s.rdptr ≠ s.outlen := fun he => hlt.ne (congrArg BitVec.toNat he)
    have hat : s.outAt s.rdptr = some b := (State.outAt_of_lt (hlt.trans_le hcap)).trans (congrArg some hread)
    simp only [exec, execRdout, hp, beq_self_eq_true, State.command_true, if_neg hne, hat, State.finish_ok]
    rfl
  · simp only [exec, execRdout, hp, beq_self_eq_true, State.command_true, if_pos hend, State.finish_reject]
    rfl
  · simp only [exec, execRdout, beq_false_of_ne hp, State.command_false]
    rfl

/-! ## The flush of the packer -/

/-- Below the bits shifted up there are zeros. -/
theorem lowBits_shiftLeft_zeros {w : Nat} (v : BitVec w) {n k : Nat} (h : n ≤ k) :
    lowBits (v <<< k) n = List.replicate n false := by
  induction n with
  | zero => rfl
  | succ n ih =>
    have hbit : (v <<< k).getLsbD n = false := by simp [show n < k by omega]
    rw [lowBits, hbit, ih (by omega), List.replicate_succ]

/-- Bits shifted up stand above as many zeros. -/
theorem lowBits_shiftLeft {w : Nat} (v : BitVec w) {n k : Nat} (h : n + k ≤ w) :
    lowBits (v <<< k) (n + k) = lowBits v n ++ List.replicate k false := by
  induction n with
  | zero =>
    rw [Nat.zero_add]
    exact lowBits_shiftLeft_zeros v le_rfl
  | succ n ih =>
    have hbit : (v <<< k).getLsbD (n + k) = v.getLsbD n := by
      rw [BitVec.getLsbD_shiftLeft, decide_eq_true (show n + k < w by omega), decide_eq_false (by omega)]
      simp
    rw [Nat.add_right_comm, lowBits, hbit, ih (by omega)]
    rfl

/-- The padded byte is the pending bits, then zeros (R181). -/
theorem State.lowBits_padByte (s : State) :
    lowBits s.padByte 8 = lowBits s.acc s.accn.toNat ++ List.replicate (8 - s.accn.toNat) false := by
  have hlt := s.accn.isLt
  have hsum : s.accn.toNat + (8 - s.accn.toNat) = 8 := by omega
  have h := lowBits_shiftLeft s.acc (n := s.accn.toNat) (k := 8 - s.accn.toNat) hsum.le
  rwa [hsum] at h

/-- The flush ends in a new state where its byte, if there is one, fits. -/
theorem State.flush_room (h : s.accn ≠ 0#3 → s.outlen.toNat < s.outcap.toNat) : ∃ u, s.flush = .ok u := by
  unfold State.flush
  split
  · exact ⟨s, rfl⟩
  · rename_i hn
    exact ⟨_, by rw [State.emit_room (h hn)]⟩

/-- ENCF past its flush answers ENC_BITS (R181). -/
theorem exec_encf_of_flush (hp : s.phase = .coded ∨ s.phase = .encoding) (hu : s.flush = .ok u) :
    exec .encf s = .next (State.respond { u with phase := .done } u.encBits) := by
  simp only [exec, execEncf, packerPhase hp, State.command_true, hu, State.finish_ok]

/-- Settles O35: with nothing pending the output is the bits taken; else one more byte holds them and zeros. -/
theorem encfPadsAndFlushes : Obligations.EncfPadsAndFlushes := by
  intro s ⟨_, _, _, _, hwf⟩ ⟨hcount, hacc⟩ hp hroom
  have hcount := hcount hp
  obtain ⟨u, hu⟩ := State.flush_room hroom
  refine ⟨_, exec_encf_of_flush hp hu, ?_⟩
  obtain ⟨hn, rfl⟩ | ⟨hn, hlt, rfl⟩ := State.flush_ok hu
  · have hzero : u.accn.toNat = 0 := congrArg BitVec.toNat hn
    rw [hzero] at hacc hcount
    have hlen : u.outlen.toNat = (u.encBits.toNat + 7) / 8 := by omega
    refine ⟨?_, hlen, hn, BitVec.eq_of_toNat_eq (by simpa using hacc), rfl, fun _ _ => rfl, rfl, rfl⟩
    unfold State.takenBits
    rw [hzero]
    exact ((List.append_nil _).trans (List.append_nil _)).symm
  · have hpos : s.accn.toNat ≠ 0 := fun h0 => hn (BitVec.eq_of_toNat_eq h0)
    have hlt8 := s.accn.isLt
    have hlen : (s.outlen + 1#40).toNat = (s.encBits.toNat + 7) / 8 := by
      rw [State.outlen_succ hlt]
      omega
    refine ⟨?_, hlen, rfl, rfl, rfl, fun k hk => Memory.read_write_other (hk.resolve_right hn), rfl, rfl⟩
    refine (congrArg bitsOfBytes (State.OutGrows.append hwf hlt (by rfl) (by rfl) (by rfl)).2).trans ?_
    rw [bitsOfBytes_append_singleton, s.lowBits_padByte, Nat.mod_eq_of_lt (by omega), State.takenBits,
      List.append_assoc]

/-! ## The walk of the unpacker -/

@[simp] theorem State.outBytes_length (s : State) : s.outBytes.length = s.outlen.toNat := by
  simp [State.outBytes]

/-- A walk looks at NODE and ROOT only. -/
theorem State.walkBits_congr (hn : t.node = s.node) (hr : t.root = s.root) (i : NodeIdx) (bits : List Bool) :
    t.walkBits i bits = s.walkBits i bits := by
  have hentry : t.nodeEntry = s.nodeEntry := funext fun k => by rw [State.nodeEntry, hn]; rfl
  induction bits generalizing i with
  | nil => rfl
  | cons bit bits ih =>
    rw [State.walkBits, State.walkBits, State.follow, State.follow, hentry, hr, ih, ih]

/-- A walk goes on where it stands. -/
theorem State.walkBits_append (s : State) (i : NodeIdx) (xs ys : List Bool) :
    s.walkBits i (xs ++ ys) =
      ((s.walkBits i xs).1 ++ (s.walkBits (s.walkBits i xs).2 ys).1, (s.walkBits (s.walkBits i xs).2 ys).2) := by
  induction xs generalizing i with
  | nil => rfl
  | cons x xs ih =>
    simp only [List.cons_append, State.walkBits]
    split
    · rw [ih]; rfl
    · exact ih _

/-- `t` is `s` with the bits `bits` consumed by the walk of a general tree, and the symbols it meets put out (R201). -/
structure State.Walks (s : State) (bits : List Bool) (t : State) : Prop where
  grows : s.OutGrows t
  bytes : t.outBytes = s.outBytes ++ (s.walkBits s.walk bits).1
  walk : t.walk = (s.walkBits s.walk bits).2
  consumed : t.decConsumed.toNat = s.decConsumed.toNat + bits.length
  frame : t = { s with decConsumed := t.decConsumed, walk := t.walk, outbuf := t.outbuf, outlen := t.outlen }

theorem State.Walks.refl (hwf : Memory.wf 0#8 s.outcap.toNat s.outbuf = true) : s.Walks [] s :=
  ⟨.refl hwf, (List.append_nil _).symm, rfl, rfl, rfl⟩

theorem State.Walks.walkBits_eq {bits : List Bool} (h : s.Walks bits t) : t.walkBits = s.walkBits := by
  funext i ys
  exact State.walkBits_congr (by rw [h.frame]) (by rw [h.frame]) i ys

theorem State.Walks.trans {xs ys : List Bool} (h : s.Walks xs t) (h' : t.Walks ys u) : s.Walks (xs ++ ys) u where
  grows := h.grows.trans h'.grows
  bytes := by rw [h'.bytes, h.bytes, h.walkBits_eq, h.walk, State.walkBits_append, List.append_assoc]
  walk := by rw [h'.walk, h.walkBits_eq, h.walk, State.walkBits_append]
  consumed := by rw [h'.consumed, h.consumed, List.length_append, Nat.add_assoc]
  frame := by
    have := h'.frame
    rw [h.frame] at this
    exact this

/-- OUTLEN counts the symbols put out. -/
theorem State.Walks.outlen {bits : List Bool} (h : s.Walks bits t) :
    t.outlen.toNat = s.outlen.toNat + (s.walkBits s.walk bits).1.length := by
  rw [← t.outBytes_length, h.bytes, List.length_append, s.outBytes_length]

/-- Past DEC_TARGET no bit is consumed (R201). -/
theorem unpackByte_of_decTarget_le {b : Byte} (h : s.decTarget.toNat ≤ s.decConsumed.toNat) (i : Nat) :
    unpackByte b i s = .ok s := by
  induction i with
  | zero => rfl
  | succ i ih => rw [unpackByte, State.unpackBit, if_neg (by omega)]; exact ih

/-- Below DEC_TARGET a bit is consumed, and a general tree is walked (R201). -/
theorem State.unpackBit_general (hg : s.shape = .general) (hlt : s.decConsumed.toNat < s.decTarget.toNat) (bit : Bool) :
    s.unpackBit bit = State.walkBit { s with decConsumed := s.decConsumed + 1#40 } bit := by
  unfold State.unpackBit
  rw [if_pos hlt]
  exact if_neg (by simp [hg])

/-- A step of the walk in the tree: to an internal child, or to a leaf whose symbol is put out (R201). -/
theorem State.TreeOk.walkBit_eq (h : s.TreeOk) (hw : s.walk.toNat < s.nnodes.toNat) (bit : Bool) :
    s.walkBit bit =
      if (s.nodeEntry (s.follow s.walk bit).toNat).leaf then
        (s.emit (s.nodeEntry (s.follow s.walk bit).toNat).sym).map fun t => { t with walk := t.root }
      else .ok { s with walk := s.follow s.walk bit } := by
  unfold State.walkBit
  simp only [h.nodeAt hw, h.nodeAt (h.child_lt hw bit)]
  unfold State.follow
  split
  · cases s.emit _ <;> rfl
  · rfl

/-- DEC_CONSUMED does not wrap below DEC_TARGET. -/
theorem State.decConsumed_succ (hlt : s.decConsumed.toNat < s.decTarget.toNat) :
    (s.decConsumed + 1#40).toNat = s.decConsumed.toNat + 1 := by
  bv_omega

/-- A bit of a general tree below DEC_TARGET: the walk takes it, unless it meets a symbol that does not fit. -/
theorem State.UnpackSafe.unpackBit_walks (hs : s.UnpackSafe) (hwf : Memory.wf 0#8 s.outcap.toNat s.outbuf = true)
    (hg : s.shape = .general) (hlt : s.decConsumed.toNat < s.decTarget.toNat) (bit : Bool) :
    (∃ t, s.unpackBit bit = .ok t ∧ s.Walks [bit] t) ∨
      (s.unpackBit bit = .error (.fatal .outOvf) ∧
        s.outcap.toNat < s.outlen.toNat + (s.walkBits s.walk [bit]).1.length) := by
  have hcons := State.decConsumed_succ hlt
  have hstep := (State.unpackBit_general hg hlt bit).trans
    (State.TreeOk.walkBit_eq (s := { s with decConsumed := s.decConsumed + 1#40 }) hs.tree hs.walk bit)
  change s.unpackBit bit = if (s.nodeEntry (s.follow s.walk bit).toNat).leaf = true then _ else _ at hstep
  by_cases hleaf : (s.nodeEntry (s.follow s.walk bit).toNat).leaf = true
  · rw [if_pos hleaf] at hstep
    have hwalk : s.walkBits s.walk [bit] = ([(s.nodeEntry (s.follow s.walk bit).toNat).sym], s.root) := if_pos hleaf
    rcases hs.room.lt_or_eq with hroom | hfull
    · rw [State.emit_room (s := { s with decConsumed := s.decConsumed + 1#40 }) hroom] at hstep
      refine .inl ⟨_, hstep, ?_⟩
      refine ⟨(State.OutGrows.append hwf hroom (by rfl) (by rfl) (by rfl)).1, ?_, by rw [hwalk], hcons, rfl⟩
      rw [hwalk]
      exact (State.OutGrows.append hwf hroom (by rfl) (by rfl) (by rfl)).2
    · rw [State.emit_full (s := { s with decConsumed := s.decConsumed + 1#40 }) (BitVec.eq_of_toNat_eq hfull)] at hstep
      exact .inr ⟨hstep, by rw [hwalk, hfull]; exact Nat.lt_succ_self _⟩
  · rw [if_neg hleaf] at hstep
    have hwalk : s.walkBits s.walk [bit] = ([], s.follow s.walk bit) := if_neg hleaf
    refine .inl ⟨_, hstep, ⟨hwf, le_rfl, fun _ _ => rfl⟩, ?_, by rw [hwalk]; rfl, hcons, rfl⟩
    rw [hwalk]
    exact (List.append_nil _).symm

/-- The bits of a byte from bit `i - 1` down that the unpacker consumes: those below DEC_TARGET (R201). -/
def State.bitsLeft (s : State) (b : Byte) (i : Nat) : List Bool :=
  (lowBits b i).take (s.decTarget.toNat - s.decConsumed.toNat)

theorem State.bitsLeft_of_decTarget_le (h : s.decTarget.toNat ≤ s.decConsumed.toNat) (b : Byte) (i : Nat) :
    s.bitsLeft b i = [] := by
  rw [State.bitsLeft, Nat.sub_eq_zero_of_le h, List.take_zero]

/-- Below DEC_TARGET the next bit is consumed, and then those that a state with one more consumed has left. -/
theorem State.bitsLeft_succ (hlt : s.decConsumed.toNat < s.decTarget.toNat) (htarget : t.decTarget = s.decTarget)
    (hcons : t.decConsumed.toNat = s.decConsumed.toNat + 1) (b : Byte) (i : Nat) :
    s.bitsLeft b (i + 1) = [b.getLsbD i] ++ t.bitsLeft b i := by
  have hsub : s.decTarget.toNat - s.decConsumed.toNat = s.decTarget.toNat - (s.decConsumed.toNat + 1) + 1 := by omega
  rw [State.bitsLeft, State.bitsLeft, htarget, hcons, hsub]
  rfl

/-- The walk takes all the bits of a byte below DEC_TARGET, unless it meets a symbol that does not fit. -/
theorem State.UnpackSafe.unpackByte_walks (hs : s.UnpackSafe) (hwf : Memory.wf 0#8 s.outcap.toNat s.outbuf = true)
    (hg : s.shape = .general) (b : Byte) (i : Nat) :
    (∃ t, unpackByte b i s = .ok t ∧ s.Walks (s.bitsLeft b i) t) ∨
      (unpackByte b i s = .error (.fatal .outOvf) ∧
        s.outcap.toNat < s.outlen.toNat + (s.walkBits s.walk (s.bitsLeft b i)).1.length) := by
  induction i generalizing s with
  | zero => exact .inl ⟨s, rfl, by rw [State.bitsLeft, lowBits, List.take_nil]; exact .refl hwf⟩
  | succ i ih =>
    rcases Nat.lt_or_ge s.decConsumed.toNat s.decTarget.toNat with hlt | hpast
    · rw [unpackByte]
      obtain ⟨t, ht, hbit⟩ | ⟨he, hfull⟩ := hs.unpackBit_walks hwf hg hlt (b.getLsbD i)
      · have hcap : t.outcap = s.outcap := by rw [hbit.frame]
        rw [ht, State.bitsLeft_succ hlt (by rw [hbit.frame]) hbit.consumed]
        obtain ⟨u, hu, hrest⟩ | ⟨he, hfull⟩ :=
          ih (hs.of_unpackBit ht) hbit.grows.wf (by rw [hbit.frame]; exact hg)
        · exact .inl ⟨u, hu, hbit.trans hrest⟩
        · refine .inr ⟨he, ?_⟩
          rw [hcap, hbit.outlen, hbit.walkBits_eq, hbit.walk] at hfull
          rw [State.walkBits_append, List.length_append]
          omega
      · rw [he, State.bitsLeft_succ (t := { s with decConsumed := s.decConsumed + 1#40 }) hlt rfl
          (State.decConsumed_succ hlt)]
        refine .inr ⟨rfl, ?_⟩
        rw [State.walkBits_append, List.length_append]
        omega
    · rw [State.bitsLeft_of_decTarget_le hpast]
      exact .inl ⟨s, unpackByte_of_decTarget_le hpast _, .refl hwf⟩

/-- DECB of a tree that is not absent answers OUTLEN (R201). -/
theorem exec_decb_of_unpackByte {b : Byte} (hp : s.phase = .decoding) (ha : s.shape ≠ .absent)
    (hu : unpackByte b 8 s = .ok u) : exec (.decb b) s = .next (u.respond u.outlen) := by
  simp only [exec, execDecb, hp, beq_self_eq_true, State.command_true, if_neg ha, hu, State.finish_ok]

/-- Settles O38: the loop is the declarative walk (`unpackByte_walks`), which only a full OUTBUF ends early. -/
theorem decbWalksTheTree : Obligations.DecbWalksTheTree := by
  intro s b hi hp hg bits out hroom
  have ha : s.shape ≠ .absent := by simp [hg]
  obtain ⟨-, -, -, -, hwf⟩ := hi.mem
  obtain ⟨u, hu, h⟩ | ⟨-, hfull⟩ := (hi.unpackSafe hp ha).unpackByte_walks hwf hg b 8
  · refine ⟨_, exec_decb_of_unpackByte hp ha hu, h.bytes, h.walk, h.consumed, h.outlen, h.grows.outside, ?_, ?_⟩
    · rw [h.frame]; rfl
    · rw [h.frame, State.Answers, State.respond_port, hp]
      rfl
  · exact absurd hfull (Nat.not_lt.2 hroom)

end Sys2Proof.Machine

namespace Sys2Proof

variable {w : Word}

/-! ## Command words by their fields -/

/-- A word is assembled from its own fields (R82). -/
theorem cmdWord_ofWord (w : Word) :
    cmdWord (Fields.ofWord w).op (Fields.ofWord w).sym (Fields.ofWord w).rsv (Fields.ofWord w).imm = w := by
  apply BitVec.eq_of_toNat_eq
  simp only [cmdWord, Fields.ofWord, Machine.toNat_append_eq_add, BitVec.extractLsb'_toNat, Nat.shiftRight_eq_div_pow]
  omega

theorem cmdWord_inj {op op' sym sym' rsv rsv' : BitVec 8} {imm imm' : BitVec 40} :
    cmdWord op sym rsv imm = cmdWord op' sym' rsv' imm' ↔ op = op' ∧ sym = sym' ∧ rsv = rsv' ∧ imm = imm' := by
  refine ⟨fun h => ?_, by rintro ⟨rfl, rfl, rfl, rfl⟩; rfl⟩
  simpa using congrArg Fields.ofWord h

theorem cmdWord_and (op op' sym sym' rsv rsv' : BitVec 8) (imm imm' : BitVec 40) :
    cmdWord op sym rsv imm &&& cmdWord op' sym' rsv' imm' =
      cmdWord (op &&& op') (sym &&& sym') (rsv &&& rsv') (imm &&& imm') := by
  unfold cmdWord
  rw [BitVec.and_append, BitVec.and_append, BitVec.and_append]

/-- A mask of all bits but the low `k` leaves nothing of exactly the values below `2 ^ k`. -/
theorem and_allOnes_shiftLeft_eq_zero {n : Nat} (x : BitVec n) (k : Nat) :
    x &&& (BitVec.allOnes n <<< k) = 0#n ↔ x.toNat < 2 ^ k := by
  refine ⟨fun h => Nat.lt_pow_two_of_testBit _ fun i hi => ?_, fun h => ?_⟩
  · have hbit := congrArg (fun y => BitVec.getLsbD y i) h
    rcases Nat.lt_or_ge i n with hin | hin
    · have hx : x.getLsbD i = false := by simpa [hin, Nat.not_lt.2 hi] using hbit
      exact hx
    · exact BitVec.getLsbD_of_ge x i hin
  · apply BitVec.eq_of_getLsbD_eq
    intro i hin
    rcases Nat.lt_or_ge i k with hik | hik
    · simp [hik]
    · have hbit : x.getLsbD i = false := Nat.testBit_lt_two_pow (h.trans_le (Nat.pow_le_pow_right (by decide) hik))
      simp [hbit]

/-! ## The zero fields of a format, and its mask -/

/-- The bits of SYM that are operands in a format (R83). -/
def Format.symBits : Format → Nat
  | .s | .sv | .sw => 8
  | .n | .r | .x | .l => 0

/-- The bits of IMM that are operands in a format, counted from bit 0 (R83). -/
def Format.immBits : Format → Nat
  | .n | .s => 0
  | .sv => 32
  | .sw => 3
  | .r => 5
  | .x => 10
  | .l => 40

/-- The opcode and the bits that a format requires zero. -/
def Format.mask (fmt : Format) : Word :=
  cmdWord (BitVec.allOnes 8) (BitVec.allOnes 8 <<< fmt.symBits) (BitVec.allOnes 8) (BitVec.allOnes 40 <<< fmt.immBits)

theorem toNat_lt_one_iff {n : Nat} {x : BitVec n} : x.toNat < 1 ↔ x = 0#n := by
  rw [Nat.lt_one_iff, ← BitVec.toNat_inj, BitVec.toNat_ofNat, Nat.zero_mod]

theorem Fields.symOk_iff (fmt : Format) (f : Fields) : f.symOk fmt = true ↔ f.sym.toNat < 2 ^ fmt.symBits := by
  cases fmt
  case s | sv | sw => exact iff_of_true rfl f.sym.isLt
  all_goals exact beq_iff_eq.trans toNat_lt_one_iff.symm

theorem Fields.immOk_iff (fmt : Format) (f : Fields) : f.immOk fmt = true ↔ f.imm.toNat < 2 ^ fmt.immBits := by
  cases fmt
  case n | s => exact beq_iff_eq.trans toNat_lt_one_iff.symm
  case l => exact iff_of_true rfl f.imm.isLt
  all_goals exact decide_eq_true_iff

theorem Fields.wellFormed_iff (fmt : Format) (f : Fields) : f.wellFormed fmt = true ↔
    f.sym.toNat < 2 ^ fmt.symBits ∧ f.rsv = 0#8 ∧ f.imm.toNat < 2 ^ fmt.immBits := by
  rw [Fields.wellFormed, Bool.and_eq_true, Bool.and_eq_true, Fields.symOk_iff, Fields.immOk_iff, Fields.rsvOk, beq_iff_eq,
    and_assoc, and_left_comm]

/-- The opcode alone remains under the mask of a format exactly where the format's zero fields are zero (R83, R92). -/
theorem and_mask_eq_iff (fmt : Format) (w : Word) :
    w &&& fmt.mask = cmdWord (wordOp w) 0#8 0#8 0#40 ↔ (Fields.ofWord w).wellFormed fmt = true := by
  have hand : w &&& fmt.mask = _ := (congrArg (· &&& fmt.mask) (cmdWord_ofWord w).symm).trans (cmdWord_and ..)
  rw [hand, cmdWord_inj, and_allOnes_shiftLeft_eq_zero, and_allOnes_shiftLeft_eq_zero, BitVec.and_allOnes,
    BitVec.and_allOnes, Fields.wellFormed_iff]
  exact and_iff_right rfl

/-! ## The operands of a format -/

/-- The word with opcode `op` whose operands are those a format takes from `w`, and whose other bits are 0 (R83, R97). -/
def Format.word (fmt : Format) (op : BitVec 8) (w : Word) : Word :=
  match fmt with
  | .n => cmdWord op 0#8 0#8 0#40
  | .s => cmdWord op (wordSym w) 0#8 0#40
  | .sv => cmdWord op (wordSym w) 0#8 (0#8 ++ wordValue w)
  | .sw => cmdWord op (wordSym w) 0#8 (0#37 ++ wordChunk w)
  | .r => cmdWord op 0#8 0#8 (0#35 ++ wordReg w)
  | .x => cmdWord op 0#8 0#8 (0#30 ++ BitVec.ofBool (wordSel w) ++ wordIndex w)
  | .l => cmdWord op 0#8 0#8 (wordCount w)

/-- RDNODE's operands side by side are the low ten bits of the word (R97). -/
theorem wordSel_append_wordIndex (w : Word) :
    BitVec.ofBool (wordSel w) ++ wordIndex w = w.extractLsb' 0 10 := by
  apply BitVec.eq_of_toNat_eq
  have hsel : (wordSel w).toNat = w.toNat / 2 ^ 9 % 2 := Nat.toNat_testBit ..
  rw [Machine.toNat_append_eq_add, BitVec.toNat_ofBool, hsel, wordIndex, BitVec.extractLsb'_toNat,
    BitVec.extractLsb'_toNat, Nat.shiftRight_zero]
  omega

/-- A value below `2 ^ k` is its low `k` bits with zeros above. -/
theorem zero_append_extractLsb' {m k : Nat} (w : Word) (h : (w.extractLsb' 0 (m + k)).toNat < 2 ^ k) :
    0#m ++ w.extractLsb' 0 k = w.extractLsb' 0 (m + k) := by
  apply BitVec.eq_of_toNat_eq
  rw [Machine.toNat_append_eq_add, BitVec.toNat_ofNat, Nat.zero_mod, Nat.zero_mul, Nat.zero_add, BitVec.extractLsb'_toNat,
    ← Nat.mod_eq_of_lt h, BitVec.extractLsb'_toNat, Nat.mod_mod_of_dvd _ (Nat.pow_dvd_pow 2 (Nat.le_add_left k m))]

/-- The operands of a well-formed word are all it holds: no other bit is 1 (R83, R97). -/
theorem Format.word_eq_of_wellFormed {fmt : Format} (h : (Fields.ofWord w).wellFormed fmt = true) :
    fmt.word (wordOp w) w = w := by
  obtain ⟨hsym, hrsv, himm⟩ := (Fields.wellFormed_iff fmt _).1 h
  refine Eq.trans ?_ (cmdWord_ofWord w)
  rw [hrsv]
  cases fmt
  case n => rw [toNat_lt_one_iff.1 hsym, toNat_lt_one_iff.1 himm]; rfl
  case s => rw [toNat_lt_one_iff.1 himm]; rfl
  case sv => exact congrArg (cmdWord _ _ _) (zero_append_extractLsb' (m := 8) (k := 32) w himm)
  case sw => exact congrArg (cmdWord _ _ _) (zero_append_extractLsb' (m := 37) (k := 3) w himm)
  case r =>
    rw [toNat_lt_one_iff.1 hsym]
    exact congrArg (cmdWord _ _ _) (zero_append_extractLsb' (m := 35) (k := 5) w himm)
  case x =>
    rw [toNat_lt_one_iff.1 hsym]
    refine congrArg (cmdWord _ _ _) (Eq.trans ?_ (zero_append_extractLsb' (m := 30) (k := 10) w himm))
    rw [← wordSel_append_wordIndex, BitVec.append_assoc]
    rfl
  case l => rw [toNat_lt_one_iff.1 hsym]; rfl

/-! ## The decoder, by fields -/

/-- The row of the opcode table that `decode` looks up (R90). -/
def rowOf (op : BitVec 8) : Option OpcodeRow :=
  opcodeTable.find? fun row => wordOp row.pattern == op

/-- A row of the opcode table is that of the format `fmt` in R83's and R90's tables. -/
structure OpcodeRow.MeetsFormat (row : OpcodeRow) (fmt : Format) : Prop where
  ofOp : Format.ofOp (wordOp row.pattern) = some fmt
  format : ∀ w, (row.operands w).format = fmt
  encode : ∀ w, encode (row.operands w) = fmt.word (wordOp row.pattern) w
  pattern : row.pattern = cmdWord (wordOp row.pattern) 0#8 0#8 0#40
  mask : row.mask = fmt.mask

theorem meetsFormat_of_mem_opcodeTable {row : OpcodeRow} (h : row ∈ opcodeTable) : ∃ fmt, row.MeetsFormat fmt := by
  fin_cases h <;> exact ⟨_, rfl, fun _ => rfl, fun _ => rfl, rfl, by decide⟩

theorem rowOf_eq_some {op : BitVec 8} {row : OpcodeRow} (h : rowOf op = some row) :
    row ∈ opcodeTable ∧ wordOp row.pattern = op :=
  ⟨List.mem_of_find?_eq_some h, by simpa using List.find?_some h⟩

/-- The opcodes without a row are those of no format (R91). -/
theorem ofOp_of_rowOf_none : ∀ op, rowOf op = none → Format.ofOp op = none := by
  decide

theorem decode_eq_rowOf (w : Word) : decode w = (rowOf (wordOp w)).elim (.error .opcode)
    fun row => if w &&& row.mask = row.pattern then .ok (row.operands w) else .error .field := by
  unfold decode rowOf
  split <;> simp only [*, Option.elim]

/-- What decoding a word can give, with R83's and R90's tables (R88): the opcode error; or, with a row of the table, its
command where the fields meet the format, and the field error elsewhere. -/
theorem decode_cases (w : Word) :
    (Format.ofOp (wordOp w) = none ∧ decode w = .error .opcode) ∨
      ∃ row fmt, rowOf (wordOp w) = some row ∧ wordOp row.pattern = wordOp w ∧ row.MeetsFormat fmt ∧
        decode w = if (Fields.ofWord w).wellFormed fmt = true then .ok (row.operands w) else .error .field := by
  rw [decode_eq_rowOf]
  cases hrow : rowOf (wordOp w) with
  | none => exact .inl ⟨ofOp_of_rowOf_none _ hrow, rfl⟩
  | some row =>
    obtain ⟨hmem, hop⟩ := rowOf_eq_some hrow
    obtain ⟨fmt, hfmt⟩ := meetsFormat_of_mem_opcodeTable hmem
    refine .inr ⟨row, fmt, rfl, hop, hfmt, ?_⟩
    simp only [← and_mask_eq_iff, ← hfmt.mask, ← hop, ← hfmt.pattern, Option.elim]

/-- Settles O3: the opcode table's rows are those of R83's and R90's tables (`decode_cases`). -/
theorem decodeChecksOpcodeThenFields : Obligations.DecodeChecksOpcodeThenFields := by
  intro w
  change (_ ↔ Format.ofOp (wordOp w) = none) ∧ ∀ fmt, Format.ofOp (wordOp w) = some fmt → _
  obtain ⟨hnone, hdec⟩ | ⟨row, fmt, -, hop, hfmt, hdec⟩ := decode_cases w
  · simp [hnone, hdec]
  · rw [← hop, hfmt.ofOp, hdec]
    refine ⟨by split <;> simp, ?_⟩
    rintro _ ⟨⟩
    cases hwf : (Fields.ofWord w).wellFormed fmt
    · simp
    · simp [hfmt.format]

/-- Settles O2: a decoded word is well formed, so its operands are all it holds. -/
theorem encodeOfDecodeIsTheWord : Obligations.EncodeOfDecodeIsTheWord := by
  intro w i hd
  obtain ⟨-, hdec⟩ | ⟨row, fmt, -, hop, hfmt, hdec⟩ := decode_cases w <;> rw [hdec] at hd
  · cases hd
  · split at hd
    · rename_i hwf
      cases hd
      rw [hfmt.encode, hop, Format.word_eq_of_wellFormed hwf]
    · cases hd

/-- Every command's word is well formed in its own format (R83, R90). -/
theorem encode_meets_format : ∀ i : Instr, Laws.EncodeMeetsFormat.Statement i
  | .nop => Laws.EncodeMeetsFormat.nop
  | .clr => Laws.EncodeMeetsFormat.clr
  | .sess => Laws.EncodeMeetsFormat.sess
  | .rdreg reg => Laws.EncodeMeetsFormat.rdreg reg
  | .facc sym => Laws.EncodeMeetsFormat.facc sym
  | .fset sym value => Laws.EncodeMeetsFormat.fset sym value
  | .rdfreq sym => Laws.EncodeMeetsFormat.rdfreq sym
  | .build => Laws.EncodeMeetsFormat.build
  | .rdnode sel index => Laws.EncodeMeetsFormat.rdnode sel index
  | .genc => Laws.EncodeMeetsFormat.genc
  | .rdcode sym chunk => Laws.EncodeMeetsFormat.rdcode sym chunk
  | .encb sym => Laws.EncodeMeetsFormat.encb sym
  | .encf => Laws.EncodeMeetsFormat.encf
  | .decs count => Laws.EncodeMeetsFormat.decs count
  | .decb byte => Laws.EncodeMeetsFormat.decb byte
  | .decf => Laws.EncodeMeetsFormat.decf
  | .rdout => Laws.EncodeMeetsFormat.rdout

/-- An operand at the bottom of IMM is read back from the assembled word (R97). -/
theorem extractLsb'_cmdWord_append {m k : Nat} (op sym rsv : BitVec 8) (x : BitVec m) (y : BitVec k) (h : m + k = 40) :
    (cmdWord op sym rsv ((x ++ y).cast h)).extractLsb' 0 k = y := by
  refine (BitVec.extractLsb'_append_eq_of_add_le (by omega)).trans ?_
  rw [BitVec.extractLsb'_cast]
  exact BitVec.extractLsb'_append_eq_right

/-- The operands a row takes from the word of its own command are that command's (R97). -/
theorem operands_encode {i : Instr} {row : OpcodeRow} (h : rowOf (wordOp (encode i)) = some row) :
    row.operands (encode i) = i := by
  cases i <;> simp only [encode, wordOp_cmdWord] at h <;> obtain rfl := Option.some.inj h
  case nop | clr | sess | build | genc | encf | decf | rdout => rfl
  case facc sym => exact congrArg Instr.facc (wordSym_cmdWord ..)
  case rdfreq sym => exact congrArg Instr.rdfreq (wordSym_cmdWord ..)
  case encb sym => exact congrArg Instr.encb (wordSym_cmdWord ..)
  case decb byte => exact congrArg Instr.decb (wordSym_cmdWord ..)
  case decs count => exact congrArg Instr.decs (wordCount_cmdWord ..)
  case rdreg reg => exact congrArg Instr.rdreg (extractLsb'_cmdWord_append _ _ _ 0#35 reg rfl)
  case fset sym value =>
    exact congrArg₂ Instr.fset (wordSym_cmdWord ..) (extractLsb'_cmdWord_append _ _ _ 0#8 value rfl)
  case rdcode sym chunk =>
    exact congrArg₂ Instr.rdcode (wordSym_cmdWord ..) (extractLsb'_cmdWord_append _ _ _ 0#37 chunk rfl)
  case rdnode sel index =>
    refine congrArg₂ Instr.rdnode ?_ (extractLsb'_cmdWord_append _ _ _ (0#30 ++ BitVec.ofBool sel) index rfl)
    simp only [wordSel, encode, cmdWord, BitVec.getLsbD_append]
    simp

/-- Settles O1: the word of a command is well formed in the command's format, so its row gives the command back. -/
theorem decodeOfEncodeIsTheCommand : Obligations.DecodeOfEncodeIsTheCommand := by
  intro i
  obtain ⟨hop, hwf⟩ := encode_meets_format i
  obtain ⟨hnone, -⟩ | ⟨row, fmt, hrow, hpat, hfmt, hdec⟩ := decode_cases (encode i)
  · cases hop.symm.trans hnone
  · have hi : row.operands (encode i) = i := operands_encode hrow
    rw [hdec, hi, ← hfmt.format (encode i), hi, if_pos hwf]

/-- Settles O4: the seven words, decoded. -/
theorem decodesTheSyntaxExamples : Obligations.DecodesTheSyntaxExamples :=
  ⟨rfl, rfl, rfl, rfl, rfl, rfl, rfl⟩

end Sys2Proof

namespace Sys2Proof.Machine

variable {s t u : State}

/-! ## The ports -/

/-- A word that is offered while the response port is free is accepted (R81, R88). -/
theorem step_of_accepted {w : Word} {rest : List HostAct} (hh : s.port.host = .offer w :: rest)
    (hr : s.port.rsp = none) : step s = handleWord w (s.withHost rest) := by
  have hready : s.cmdReady = true := by rw [State.cmdReady, hr]; rfl
  simp only [step, hostStep, hh, hready, if_true]

/-- Settles O6: the offer is accepted, as the port is free, and taking it leaves the acts as they were. -/
theorem fetchWordRunsNext : Obligations.FetchWordRunsNext := by
  intro s w i hd
  have hdec : decode (BitVec.ofNat 64 (w % 2 ^ 64)) = .ok i := by
    unfold decodeTableWord at hd
    split at hd <;> simp_all
  have hback : (s.withFetchWord 64 w).withHost s.port.host = s.takeRsp := by
    rw [← State.takeRsp_host]
    rfl
  rw [step_of_offer (s := s.withFetchWord 64 w) (rest := s.port.host) rfl s.takeRsp_rsp hdec, hback]

/-- Settles O7: the opcodes are counted, and a word with an opcode of no format is answered with R_OPCODE. -/
theorem illegalOpcodeIsRejected : Obligations.IllegalOpcodeIsRejected := by
  refine ⟨by decide +kernel, fun s w rest hh hr hop => ?_⟩
  have hdec : decode w = .error .opcode := (decodeChecksOpcodeThenFields w).1.2 hop
  rw [step_of_accepted hh hr, handleWord, hdec]
  rfl

/-- Settles O8: with a legal opcode, a word whose zero fields are not zero is answered with R_FIELD. -/
theorem reservedBitIsRejected : Obligations.ReservedBitIsRejected := by
  intro s w rest fmt hh hr hop hwf
  have hdec : decode w = .error .field := ((decodeChecksOpcodeThenFields w).2 fmt hop).1.2 hwf
  rw [step_of_accepted hh hr, handleWord, hdec]
  rfl

theorem State.takeRsp_of_some {r : Word} (h : s.port.rsp = some r) :
    s.takeRsp = s.onPort { s.port with rsp := none, sent := s.port.sent ++ [r] } := by
  simp only [State.takeRsp, h]
  rfl

theorem State.takeRsp_of_none (h : s.port.rsp = none) : s.takeRsp = s := by
  simp only [State.takeRsp, h]

/-- Settles O9: each act of the host, by what the response port holds. -/
theorem oneCommandInFlight : Obligations.OneCommandInFlight := by
  refine fun s rest => ⟨fun w r hh hr => ?_, fun r hh hr => ?_, fun hh hr => ?_, fun hh => ?_⟩
  · have hbusy : ¬ s.cmdReady = true := by simp [State.cmdReady, hr]
    simp only [step, hostStep, hh, if_neg hbusy]
    rfl
  · simp only [step, hostStep, hh, State.takeRsp_of_some (s := s.withHost rest) hr]
    rfl
  · simp only [step, hostStep, hh, State.takeRsp_of_none (s := s.withHost rest) hr]
    rfl
  · simp only [step, hostStep, hh]

/-! ## Responses -/

@[simp] theorem rspPhase_rspWord (st : BitVec 8) (ph : Phase) (d : Data) : rspPhase (rspWord st ph d) = ph.bits := by
  apply BitVec.eq_of_toNat_eq
  simp only [rspPhase, rspWord, toNat_append_eq_add, BitVec.extractLsb'_toNat, BitVec.toNat_ofNat,
    Nat.shiftRight_eq_div_pow]
  omega

@[simp] theorem rspReserved_rspWord (st : BitVec 8) (ph : Phase) (d : Data) : rspReserved (rspWord st ph d) = 0#12 := by
  apply BitVec.eq_of_toNat_eq
  simp only [rspReserved, rspWord, toNat_append_eq_add, BitVec.extractLsb'_toNat, BitVec.toNat_ofNat,
    Nat.shiftRight_eq_div_pow]
  omega

/-- No effect of a command touches the ports. -/
theorem Effect.port_eq {i : Instr} (he : Effect i s u) : u.port = s.port := by
  cases he with
  | encb _ _ _ _ _ _ hu => rw [packCode_frame hu]
  | encf _ _ _ hu => obtain ⟨-, rfl⟩ | ⟨-, -, rfl⟩ := State.flush_ok hu <;> rfl
  | decb _ _ _ _ _ hu => rw [unpackByte_frame hu]
  | _ => rfl

/-- The twelve codes of R241 that some rule raises. -/
def statusCodes : List (BitVec 8) :=
  [0x00#8, 0x01#8, 0x10#8, 0x11#8, 0x20#8, 0x21#8, 0x22#8, 0x80#8, 0x81#8, 0x82#8, 0x83#8, 0x84#8]

theorem FatalCode.bits_mem (c : FatalCode) : c.bits ∈ statusCodes := by
  cases c <;> decide

theorem RejectCode.bits_mem (c : RejectCode) : c.bits ∈ statusCodes := by
  cases c <;> decide

/-- `t` answers a command that began in `s`: one response, of a code of R241, which shows the phase of `t` and no data but
with OK (R84, R86, R87). -/
def State.Responded (s t : State) : Prop :=
  ∃ st d, s.Answers t (rspWord st t.phase d) ∧ st ∈ statusCodes ∧ (st = statusOk ∨ d = 0#40)

theorem State.responded_reject (s : State) (c : RejectCode) : s.Responded (s.reject c) :=
  ⟨c.bits, 0#40, rfl, c.bits_mem, .inr rfl⟩

theorem exec_responded {i : Instr} (h : exec i s = .next t) : s.Responded t := by
  obtain ⟨u, d, he, rfl⟩ | ⟨c, rfl⟩ | ⟨c, -, rfl⟩ := exec_next_cases h
  · exact ⟨statusOk, d, by rw [State.Answers, State.respond_port, he.port_eq]; rfl, by decide, .inl rfl⟩
  · exact s.responded_reject c
  · exact ⟨c.bits, 0#40, rfl, c.bits_mem, .inr rfl⟩

/-- An accepted word is answered, decodable or not (R81, R240). -/
theorem handleWord_responded {w : Word} (h : handleWord w s = .next t) : s.Responded t := by
  unfold handleWord at h
  split at h
  · cases h
    exact s.responded_reject .opcode
  · cases h
    exact s.responded_reject .field
  · exact exec_responded h

/-- Settles O10: an accepted word is answered (`handleWord_responded`), and the response word holds its fields. -/
theorem oneResponsePerAcceptedWord : Obligations.OneResponsePerAcceptedWord := by
  intro s t w rest hh hr hstep
  rw [step_of_accepted hh hr] at hstep
  obtain ⟨st, d, hport, hst, hd⟩ := handleWord_responded hstep
  refine ⟨_, hport, rspPhase_rspWord .., rspReserved_rspWord .., ?_, ?_⟩
  · rwa [rspStatus_rspWord, rspData_rspWord]
  · rwa [rspStatus_rspWord]

/-! ## The phase check -/

/-- A command checks its phase first (R88, R89), and its own rule rejects with R_RANGE or R_EMPTY only. -/
theorem exec_eq_command (i : Instr) (s : State) :
    ∃ r, exec i s = s.command (phaseLegal i s) r ∧ ∀ c, r = .reject c → c = .range ∨ c = .empty := by
  cases i
  case nop | clr | sess | rdfreq => exact ⟨.ok _ _, rfl, by rintro _ ⟨⟩⟩
  case build | rdcode | decs => exact ⟨_, rfl, by rintro _ ⟨⟩⟩
  case facc | fset | genc | encf =>
    refine ⟨_, rfl, fun c hc => ?_⟩
    split at hc <;> cases hc
  case encb =>
    refine ⟨_, rfl, fun c hc => ?_⟩
    dsimp only at hc
    repeat' split at hc
    all_goals cases hc
  case decb | decf =>
    refine ⟨_, rfl, fun c hc => ?_⟩
    repeat' split at hc
    all_goals cases hc
  case rdreg =>
    refine ⟨_, rfl, fun c hc => ?_⟩
    split at hc <;> cases hc
    exact .inl rfl
  case rdnode =>
    refine ⟨_, rfl, fun c hc => ?_⟩
    split at hc
    · cases hc
      exact .inl rfl
    · split at hc <;> cases hc
  case rdout =>
    refine ⟨_, rfl, fun c hc => ?_⟩
    split at hc
    · cases hc
      exact .inr rfl
    · split at hc <;> cases hc

/-- Settles O46: the phase check comes before the command's own rule. -/
theorem wrongPhaseIsRejected : Obligations.WrongPhaseIsRejected := by
  intro i s hl
  obtain ⟨r, hx, -⟩ := exec_eq_command i s
  rw [hx, hl, State.command_false]
  rfl

/-- Settles O47: past the phase check a command answers OK, R_RANGE, R_EMPTY or a fatal code. -/
theorem legalPhaseIsNotRejectedForPhase : Obligations.LegalPhaseIsNotRejectedForPhase := by
  intro i s t w hl hx hw
  obtain ⟨r, hr, hc⟩ := exec_eq_command i s
  rw [hr, hl, State.command_true] at hx
  obtain ⟨u, d, rfl, rfl⟩ | ⟨c, rfl, rfl⟩ | ⟨c, rfl, rfl⟩ := State.finish_next_cases hx <;> cases hw <;>
    rw [rspStatus_rspWord]
  · decide
  · obtain rfl | rfl := hc c rfl <;> decide
  · cases c <;> decide

/-- Outside IDLE no effect but CLR's writes FREQ or TOTAL. -/
theorem Effect.freq_total_eq {i : Instr} (he : Effect i s u) (hp : s.phase ≠ .idle) (hi : i ≠ .clr) :
    u.freq = s.freq ∧ u.total = s.total := by
  cases he with
  | clr => exact absurd rfl hi
  | facc _ _ hidle => exact absurd hidle hp
  | fset _ _ _ hidle => exact absurd hidle hp
  | encb _ _ _ _ _ _ hu => rw [packCode_frame hu]; exact ⟨rfl, rfl⟩
  | encf _ _ _ hu => obtain ⟨-, rfl⟩ | ⟨-, -, rfl⟩ := State.flush_ok hu <;> exact ⟨rfl, rfl⟩
  | decb _ _ _ _ _ hu => rw [unpackByte_frame hu]; exact ⟨rfl, rfl⟩
  | _ => exact ⟨rfl, rfl⟩

/-- Settles O52: responses, rejections and the fatal-error entry leave FREQ and TOTAL, and so does every effect but CLR's. -/
theorem freqIsFrozenOutsideIdle : Obligations.FreqIsFrozenOutsideIdle := by
  intro i s t hp hx hi
  obtain ⟨u, d, he, rfl⟩ | ⟨c, rfl⟩ | ⟨c, -, rfl⟩ := exec_next_cases hx
  · exact he.freq_total_eq hp hi
  · exact ⟨rfl, rfl⟩
  · exact ⟨rfl, rfl⟩

/-! ## Control and FREQ -/

/-- Settles O13: NOP has no check, and its state is the one it began in. -/
theorem nopChangesNothing : Obligations.NopChangesNothing := fun _ => rfl

/-- Settles O15: SESS has no check, and its state is `State.endSession`. -/
theorem sessKeepsTheTables : Obligations.SessKeepsTheTables := fun _ => rfl

/-- Settles O21: RDFREQ has no check, and its state is the one it began in. -/
theorem rdfreqReadsTheCount : Obligations.RdfreqReadsTheCount := fun _ _ => rfl

/-- Settles O18: FACC past its check writes one entry, and TOTAL does not wrap below 2^32 − 1. -/
theorem faccCountsOne : Obligations.FaccCountsOne := by
  intro s sym hm hp hroom
  have hne : s.total.toNat ≠ Config.maxTotal := Nat.ne_of_lt hroom
  refine ⟨State.respond { s.setFreq sym (s.freqAt sym + 1#32) with total := s.total + 1#32 }
    ((s.freqAt sym + 1#32).setWidth 40), ?_, State.freqAt_setFreq_same hm.1 sym _,
    fun y hy => State.freqAt_setFreq_other hy _, ?_, rfl, ?_⟩
  · simp only [exec, execFacc, hp, beq_self_eq_true, State.command_true, if_neg hne, State.finish_ok]
  · rw [State.respond_total, BitVec.toNat_add, BitVec.toNat_ofNat]
    omega
  · rw [State.Answers, State.respond_port, State.setFreq_phase, hp]
    rfl

/-! ## The code table of a tree that is not general -/

/-- Settles O28: GENC writes the tree's code table; it is empty for an absent tree, and one entry for a single leaf. -/
theorem gencMakesTheCodeTable : Obligations.GencMakesTheCodeTable := by
  intro s hi hp
  obtain ⟨codes, hcodes⟩ := hi.tree.treeCodes_ok
  refine ⟨_, exec_genc_built hp hcodes, rfl, rfl, rfl, rfl, fun ha sym => ?_, fun hs sym => ?_⟩
  · rw [State.treeCodes, ha] at hcodes
    cases hcodes
    exact ⟨rfl, rfl⟩
  · have hsingle : codes = [{ sym := (s.nodeEntry 0).sym, len := 1#8, bits := 0#255 }] := by
      rw [State.treeCodes, hs] at hcodes
      exact (Except.ok.inj hcodes).symm
    change Memory.read 0#255 (codeWords codes) sym.toNat = _ ∧ Memory.read 0#8 (codeLens codes) sym.toNat = _
    obtain ⟨e, he, rfl, hlen, hbits⟩ | ⟨hnone, hlen, hbits⟩ := codeTable_cases codes sym
    · rw [hsingle, List.mem_singleton] at he
      subst he
      exact ⟨hbits, by rw [hlen, if_pos rfl]⟩
    · rw [hsingle, List.forall_mem_singleton] at hnone
      exact ⟨hbits, by rw [hlen, if_neg (Ne.symm hnone)]⟩

/-- RDCODE's data, as a number (R161). -/
theorem State.codeData_eq (s : State) (sym : Byte) (w : BitVec 3) : s.codeData sym w = BitVec.ofNat 40
    ((s.clenAt sym).toNat * 2 ^ 32 + (s.cbitsAt sym).toNat / 2 ^ (32 * w.toNat) % 2 ^ 32) := by
  apply eq_ofNat_of_toNat_eq
  rw [State.codeData, toNat_append_eq_add, codeChunk, BitVec.extractLsb'_toNat, toNat_append_eq_add,
    Nat.shiftRight_eq_div_pow, BitVec.toNat_ofNat, Nat.zero_mod, Nat.zero_mul, Nat.zero_add]

/-- Settles O32: CV is RDCODE's phase check, and the code word's chunk is cut by `State.codeData_eq`. -/
theorem rdcodeReadsTheCode : Obligations.RdcodeReadsTheCode := by
  refine fun s sym w => ⟨fun hcv => ?_, fun hcv => wrongPhaseIsRejected (.rdcode sym w) s hcv⟩
  rw [← State.codeData_eq]
  exact congrArg (s.command · _) hcv

/-! ## Decode sessions -/

/-- Settles O37: the phase check, and the one state DECS makes. -/
theorem decsOpensASession : Obligations.DecsOpensASession := by
  refine fun s d => ⟨fun hp => ?_, fun hb hc => ?_⟩
  · have hlegal : phaseLegal (.decs d) s = true := by simpa [phaseLegal] using hp
    exact congrArg (s.command · _) hlegal
  · exact wrongPhaseIsRejected _ _ (by simp [phaseLegal, hb, hc])

/-- Settles O40: with an absent tree DECB has no bit to take and DECF no end to check. -/
theorem absentTreeDecodesToNothing : Obligations.AbsentTreeDecodesToNothing := by
  refine fun s b hp ha => ⟨?_, ?_⟩
  · have hx : exec (.decb b) s = .next (s.respond s.outlen) := by
      simp only [exec, execDecb, hp, beq_self_eq_true, State.command_true, if_pos ha, State.finish_ok]
    rw [hx, ← hp]
    rfl
  · simp only [exec, execDecf, hp, beq_self_eq_true, State.command_true, if_pos ha, State.finish_ok]
    rfl

/-- DECF's own rule for a tree that is not absent (R202). -/
theorem exec_decf_decoding (hp : s.phase = .decoding) (ha : s.shape ≠ .absent) :
    exec .decf s = s.finish (
      if s.decConsumed.toNat < s.decTarget.toNat then .halt (.fatal .decShort)
      else if s.shape = .general ∧ s.walk ≠ s.root then .halt (.fatal .decIncomplete)
      else .ok { s with phase := .done } s.outlen) := by
  simp only [exec, execDecf, hp, beq_self_eq_true, State.command_true, if_neg ha]

/-- Settles O42: DECF's checks in their order (R202). -/
theorem decfChecksTheEnd : Obligations.DecfChecksTheEnd := by
  intro s hp ha
  rw [exec_decf_decoding hp ha]
  refine ⟨fun hshort => ?_, fun hend hg hw => ?_, fun hend hw => ?_⟩
  · rw [if_pos hshort]
    rfl
  · rw [if_neg (Nat.not_lt.2 hend), if_pos ⟨hg, hw⟩]
    rfl
  · rw [if_neg (Nat.not_lt.2 hend), if_neg fun ⟨hg, hne⟩ => hne (hw hg)]
    rfl

/-! ## The unpacker with a single leaf -/

/-- `t` is `s` with `n` bits consumed and the symbol of the single leaf put out for each (R203). -/
structure State.Repeats (s : State) (n : Nat) (t : State) : Prop where
  grows : s.OutGrows t
  bytes : t.outBytes = s.outBytes ++ List.replicate n (s.nodeEntry 0).sym
  consumed : t.decConsumed.toNat = s.decConsumed.toNat + n
  frame : t = { s with decConsumed := t.decConsumed, outbuf := t.outbuf, outlen := t.outlen }

theorem State.Repeats.refl (hwf : Memory.wf 0#8 s.outcap.toNat s.outbuf = true) : s.Repeats 0 s :=
  ⟨.refl hwf, (List.append_nil _).symm, rfl, rfl⟩

theorem State.Repeats.trans {m n : Nat} (h : s.Repeats m t) (h' : t.Repeats n u) : s.Repeats (m + n) u where
  grows := h.grows.trans h'.grows
  bytes := by
    have hsym : t.nodeEntry = s.nodeEntry := by rw [h.frame]; rfl
    rw [h'.bytes, h.bytes, hsym, List.append_assoc, List.replicate_append_replicate]
  consumed := by rw [h'.consumed, h.consumed, Nat.add_assoc]
  frame := by
    have := h'.frame
    rw [h.frame] at this
    exact this

/-- OUTLEN counts the symbols put out. -/
theorem State.Repeats.outlen {n : Nat} (h : s.Repeats n t) : t.outlen.toNat = s.outlen.toNat + n := by
  rw [← t.outBytes_length, h.bytes, List.length_append, s.outBytes_length, List.length_replicate]

/-- A bit of a single leaf below DEC_TARGET puts its symbol out, whatever the bit, where it fits (R203). -/
theorem State.unpackBit_single (hwf : Memory.wf 0#8 s.outcap.toNat s.outbuf = true) (hs : s.shape = .single)
    (hlt : s.decConsumed.toNat < s.decTarget.toNat) (hroom : s.outlen.toNat < s.outcap.toNat) (bit : Bool) :
    ∃ t, s.unpackBit bit = .ok t ∧ s.Repeats 1 t := by
  have hbit : s.unpackBit bit =
      State.emit { s with decConsumed := s.decConsumed + 1#40 } (s.nodeEntry 0).sym := by
    unfold State.unpackBit
    rw [if_pos hlt]
    exact if_pos hs
  obtain ⟨hgrows, hbytes⟩ := State.OutGrows.append (s := s)
    (t := { s with
      decConsumed := s.decConsumed + 1#40
      outbuf := Memory.write 0#8 s.outbuf s.outlen.toNat (s.nodeEntry 0).sym
      outlen := s.outlen + 1#40 }) hwf hroom rfl rfl rfl
  exact ⟨_, hbit.trans (State.emit_room hroom), hgrows, hbytes, State.decConsumed_succ hlt, rfl⟩

/-- A byte of a single leaf puts its symbol out for each bit below DEC_TARGET, where they fit (R203). -/
theorem unpackByte_single (hwf : Memory.wf 0#8 s.outcap.toNat s.outbuf = true) (hs : s.shape = .single) (b : Byte)
    {i : Nat} (hroom : s.outlen.toNat + min i (s.decTarget.toNat - s.decConsumed.toNat) ≤ s.outcap.toNat) :
    ∃ t, unpackByte b i s = .ok t ∧ s.Repeats (min i (s.decTarget.toNat - s.decConsumed.toNat)) t := by
  induction i generalizing s with
  | zero => exact ⟨s, rfl, by rw [Nat.zero_min]; exact .refl hwf⟩
  | succ i ih =>
    rcases Nat.lt_or_ge s.decConsumed.toNat s.decTarget.toNat with hlt | hpast
    · obtain ⟨t, ht, hbit⟩ := State.unpackBit_single hwf hs hlt (by omega) (b.getLsbD i)
      have htarget : t.decTarget = s.decTarget := by rw [hbit.frame]
      have hcap : t.outcap = s.outcap := by rw [hbit.frame]
      have hshape : t.shape = .single := by rw [hbit.frame]; exact hs
      have hmin : min (i + 1) (s.decTarget.toNat - s.decConsumed.toNat) =
          1 + min i (t.decTarget.toNat - t.decConsumed.toNat) := by
        rw [htarget, hbit.consumed]
        omega
      rw [hmin] at hroom ⊢
      obtain ⟨u, hu, hrest⟩ := ih hbit.grows.wf hshape (by rw [hbit.outlen, hcap]; omega)
      exact ⟨u, by rw [unpackByte, ht]; exact hu, hbit.trans hrest⟩
    · rw [Nat.sub_eq_zero_of_le hpast, Nat.min_zero]
      exact ⟨s, unpackByte_of_decTarget_le hpast _, .refl hwf⟩

/-- Settles O39: the loop puts the symbol out for each bit it consumes (`unpackByte_single`). -/
theorem decbOfASingleLeafRepeatsTheSymbol : Obligations.DecbOfASingleLeafRepeatsTheSymbol := by
  intro s b ⟨_, _, _, _, hwf⟩ hp hs n hroom
  obtain ⟨u, hu, h⟩ := unpackByte_single hwf hs b hroom
  refine ⟨_, exec_decb_of_unpackByte hp (by simp [hs]) hu, h.bytes, h.consumed, h.outlen, h.grows.outside, ?_, ?_⟩
  · rw [h.frame]; rfl
  · rw [h.frame, State.Answers, State.respond_port, hp]
    rfl

end Sys2Proof.Machine

namespace Sys2Proof.Machine

variable {s t u : State}

/-! ## The overflow of the frequency accumulator -/

/-- Settles O20: at 2^32 − 1 FACC's check fails, and FSET's is on the exact new total (`State.TotalOk.fsetTotal_eq`). -/
theorem frequencyOverflowIsFatal : Obligations.FrequencyOverflowIsFatal := by
  refine fun s sym v hp => ⟨fun hfull => ?_, fun h hover => ?_⟩
  · simp only [exec, execFacc, hp, beq_self_eq_true, State.command_true, if_pos hfull]
    rfl
  · have hgt : Config.maxTotal < s.fsetTotal sym v := h.fsetTotal_eq sym v ▸ hover
    simp only [exec, execFset, hp, beq_self_eq_true, State.command_true, if_pos hgt]
    rfl

/-! ## FACC once per symbol of a sequence -/

/-- `t` is `s` with every symbol of `S` counted once more for each of its occurrences (R123). -/
structure State.Counts (s : State) (S : List Byte) (t : State) : Prop where
  phase : t.phase = s.phase
  freq : ∀ y, (t.freqAt y).toNat = (s.freqAt y).toNat + S.count y
  total : t.total.toNat = s.total.toNat + S.length

theorem State.Counts.refl (s : State) : s.Counts [] s :=
  ⟨rfl, fun _ => rfl, rfl⟩

theorem State.Counts.trans {S S' : List Byte} (h : s.Counts S t) (h' : t.Counts S' u) : s.Counts (S ++ S') u where
  phase := h'.phase.trans h.phase
  freq y := by rw [h'.freq, h.freq, List.count_append, Nat.add_assoc]
  total := by rw [h'.total, h.total, List.length_append, Nat.add_assoc]

/-- Every command keeps the memories' form together with TOTAL the sum. -/
theorem exec_keeps_memOk_totalOk {i : Instr} (hx : exec i s = .next t) (hm : s.MemOk) (h : s.TotalOk) :
    t.MemOk ∧ t.TotalOk :=
  exec_keeps (P := fun v => v.MemOk ∧ v.TotalOk) (fun _ _ h => h) (fun _ _ h => h)
    (fun _ _ _ he h => ⟨he.keeps_memOk h.1, he.keeps_totalOk h.1 h.2⟩) ⟨hm, h⟩ hx

/-- A count does not wrap where TOTAL, which bounds it, has room. -/
theorem State.TotalOk.freqAt_succ (h : s.TotalOk) (sym : Byte) (hroom : s.total.toNat < 2 ^ 32 - 1) :
    (s.freqAt sym + 1#32).toNat = (s.freqAt sym).toNat + 1 := by
  have hle : (s.freqAt sym).toNat ≤ s.total.toNat := h ▸ s.freqAt_le_freqSum sym
  rw [BitVec.toNat_add, BitVec.toNat_ofNat]
  omega

/-- One FACC counts its symbol exactly (R120). -/
theorem exec_facc_counts (hm : s.MemOk) (h : s.TotalOk) (hp : s.phase = .idle) (hroom : s.total.toNat < 2 ^ 32 - 1)
    (sym : Byte) : ∃ t, exec (.facc sym) s = .next t ∧ s.Counts [sym] t := by
  obtain ⟨t, hx, hsame, hother, htotal, hframe, -⟩ := faccCountsOne s sym hm hp hroom
  refine ⟨t, hx, by rw [hframe], fun y => ?_, htotal⟩
  by_cases hy : y = sym
  · rw [hy, hsame, h.freqAt_succ sym hroom, List.count_singleton_self]
  · rw [hother y hy, List.count_singleton, if_neg (by simpa using Ne.symm hy), Nat.add_zero]

theorem runAll_cons_of_next {i : Instr} {is : List Instr} (hx : exec i s = .next t) : runAll (i :: is) s = runAll is t := by
  rw [runAll, hx]

/-- FACC for each symbol of a sequence counts the sequence where TOTAL has room for all of it. -/
theorem runAll_faccs_counts (hm : s.MemOk) (h : s.TotalOk) (hp : s.phase = .idle) {S : List Byte}
    (hroom : s.total.toNat + S.length ≤ 2 ^ 32 - 1) : ∃ t, runAll (faccs S) s = .next t ∧ s.Counts S t := by
  induction S generalizing s with
  | nil => exact ⟨s, rfl, .refl s⟩
  | cons sym S ih =>
    rw [List.length_cons] at hroom
    obtain ⟨t, hx, hone⟩ := exec_facc_counts hm h hp (by omega) sym
    obtain ⟨htm, ht⟩ := exec_keeps_memOk_totalOk hx hm h
    have htotal : t.total.toNat = s.total.toNat + 1 := hone.total
    obtain ⟨u, hu, hrest⟩ := ih htm ht (hone.phase.trans hp) (by omega)
    exact ⟨u, (runAll_cons_of_next hx).trans hu, hone.trans hrest⟩

/-- Settles O22: `runAll_faccs_counts`, by induction on the sequence. -/
theorem faccSequenceCountsOccurrences : Obligations.FaccSequenceCountsOccurrences := by
  intro s S hm h hp hroom
  obtain ⟨t, hrun, hcounts⟩ := runAll_faccs_counts hm h hp hroom
  exact ⟨t, hrun, hcounts.phase.trans hp, hcounts.freq, hcounts.total⟩

end Sys2Proof.Machine

namespace Sys2Proof.Machine

variable {s t : State}

/-! ## What BUILD leaves in NODE and its registers -/

/-- Entries beyond the arena keep their contents. -/
theorem read_writeArena_beyond {ns : List Node} {m : List (Nat × Node)} {i k : Nat} (hk : i + ns.length ≤ k) :
    Memory.read Node.blank (writeArena m i ns) k = Memory.read Node.blank m k := by
  induction ns generalizing m i with
  | nil => rfl
  | cons n ns ih =>
    rw [List.length_cons] at hk
    rw [writeArena, ih (by omega), Memory.read_write_other (by omega)]

theorem State.seedLeaves_length : s.seedLeaves.length = s.presentSyms.length := by
  rw [State.seedLeaves_eq_map, List.length_map]

/-- NNODES is 2n − 1, and 0 with no leaf (R143, R146 item 1). -/
theorem State.treeArena_length_eq : s.treeArena.length = 2 * s.seedLeaves.length - 1 := by
  by_cases hne : s.seedLeaves = []
  · rw [State.treeArena_of_nil hne, hne]
    rfl
  · have := State.treeArena_length hne
    omega

theorem State.withTree_nleaves_toNat (s : State) : s.withTree.nleaves.toNat = s.seedLeaves.length := by
  have : s.seedLeaves.length ≤ 256 := s.seedLeaves_length_le
  rw [State.withTree_nleaves, BitVec.toNat_ofNat, Nat.mod_eq_of_lt (by omega)]

theorem State.withTree_root_toNat (s : State) : s.withTree.root.toNat = s.treeArena.length - 1 := by
  have : s.treeArena.length ≤ 511 := s.treeArena_length_le
  rw [State.withTree_root, BitVec.toNat_ofNat, Nat.mod_eq_of_lt (by omega)]

/-- The leaves stand first in the arena. -/
theorem State.treeArena_getElem?_leaf {k : Nat} (hk : k < s.seedLeaves.length) : s.treeArena[k]? = s.seedLeaves[k]? := by
  obtain ⟨x, h⟩ := State.treeArena_mergeOk (List.ne_nil_of_length_pos (Nat.zero_lt_of_lt hk))
  obtain ⟨ns, hns, -⟩ := h.inner
  rw [hns, List.getElem?_append_left hk]

/-- BUILD writes a leaf for each present symbol with its count (R144). -/
theorem State.withTree_nodeEntry_leaf (hwf : Memory.wf Node.blank Config.nodeCap s.node = true) {k : Nat} {sym : Byte}
    (hsym : s.presentSyms[k]? = some sym) : s.withTree.nodeEntry k = Node.ofLeaf sym (s.freqAt sym) := by
  have hk : k < s.seedLeaves.length := by
    rw [State.seedLeaves_length]
    exact (List.getElem?_eq_some_iff.1 hsym).1
  have hin : k < s.withTree.nnodes.toNat := by
    rw [State.withTree_nnodes_toNat, State.treeArena_length_eq]
    omega
  have hread := State.treeArena_getElem?_eq_withTree hwf hin
  rw [State.treeArena_getElem?_leaf hk, State.seedLeaves_eq_map, List.getElem?_map, hsym] at hread
  exact (Option.some.inj hread).symm

/-- BUILD leaves the entries beyond its arena. -/
theorem State.withTree_nodeEntry_beyond {k : Nat} (hk : s.withTree.nnodes.toNat ≤ k) :
    s.withTree.nodeEntry k = s.nodeEntry k := by
  rw [State.withTree_nnodes_toNat] at hk
  exact read_writeArena_beyond (by rwa [Nat.zero_add])

theorem Shape.ofLeaves_eq_ite (n : Nat) :
    Shape.ofLeaves n = if n = 0 then .absent else if n = 1 then .single else .general := by
  rcases n with _ | _ | n <;> simp [Shape.ofLeaves]

/-- Settles O23: the registers count the leaves and the arena, whose length is 2n − 1 (`State.treeArena_length_eq`). -/
theorem buildMakesTheTree : Obligations.BuildMakesTheTree := by
  intro s ⟨_, hwf, _⟩ hp
  refine ⟨_, exec_build_idle hp, rfl, ?_, ?_, ?_, ?_, rfl, fun k sym hsym => State.withTree_nodeEntry_leaf hwf hsym,
    fun k hk => State.withTree_nodeEntry_beyond hk, rfl, rfl⟩
  · rw [State.respond_nleaves, State.withTree_nleaves_toNat, State.seedLeaves_length]
  · rw [State.respond_shape, State.withTree_shape, State.seedLeaves_length, Shape.ofLeaves_eq_ite]
  · rw [State.respond_nnodes, State.withTree_nnodes_toNat, State.treeArena_length_eq, State.seedLeaves_length]
  · rw [State.respond_root, State.withTree_root_toNat, State.treeArena_length_eq, State.seedLeaves_length]
    split <;> omega

/-! ## The merges of BUILD, in declarative words -/

/-! ### The two least elements -/

theorem QItem.before_iff {x y : QItem} : x.before y = true ↔
    x.weight.toNat < y.weight.toNat ∨ x.weight = y.weight ∧ x.index < y.index := by
  simp [QItem.before]

theorem QItem.before_asymm {x y : QItem} (h : x.before y = true) : ¬ y.before x = true := by
  rw [QItem.before_iff, ← BitVec.toNat_inj] at *
  omega

/-- What is not before `y` is not before anything that `y` is after. -/
theorem QItem.not_before_of_before {x y z : QItem} (hxy : x.before y = true) (hz : ¬ z.before y = true) :
    ¬ z.before x = true := by
  rw [QItem.before_iff, ← BitVec.toNat_inj] at *
  omega

/-- The element taken is the least (R141). -/
theorem not_before_of_takeLeast {q rest : List QItem} {x : QItem} (h : takeLeast q = some (x, rest)) :
    ∀ y ∈ rest, ¬ y.before x = true := by
  induction q generalizing x rest with
  | nil => cases h
  | cons y q ih =>
    rw [takeLeast] at h
    split at h
    · cases h
      exact fun _ hy => nomatch hy
    · rename_i z rest' hq
      split at h
      · rename_i hyz
        cases h
        exact List.forall_mem_cons.2 ⟨QItem.before_asymm hyz, fun w hw => QItem.not_before_of_before hyz (ih hq w hw)⟩
      · rename_i hyz
        cases h
        exact List.forall_mem_cons.2 ⟨hyz, ih hq⟩

theorem exists_takeLeast {q : List QItem} (h : q ≠ []) : ∃ x rest, takeLeast q = some (x, rest) := by
  cases hq : takeLeast q with
  | none => exact absurd (takeLeast_eq_none hq) h
  | some p => exact ⟨p.1, p.2, rfl⟩

/-- One pass of R140's loop takes the two least elements of the collection. -/
theorem mergeAll_takes_two_least {k : Nat} {q : List QItem} {arena : List Node} (h : 2 ≤ q.length) :
    ∃ a b q', q.Perm (a :: b :: q') ∧ (∀ y ∈ b :: q', ¬ y.before a = true) ∧ (∀ y ∈ q', ¬ y.before b = true) ∧
      mergeAll (k + 1) q arena = mergeAll k ({ weight := a.weight + b.weight, index := arena.length } :: q')
        (arena ++ [Node.ofChildren (a.weight + b.weight) (BitVec.ofNat 9 a.index) (BitVec.ofNat 9 b.index)]) := by
  obtain ⟨a, q₁, hq⟩ := exists_takeLeast (List.ne_nil_of_length_pos (by omega : 0 < q.length))
  have hperm₁ := perm_of_takeLeast hq
  have hlen := hperm₁.length_eq
  rw [List.length_cons] at hlen
  obtain ⟨b, q₂, hq₁⟩ := exists_takeLeast (List.ne_nil_of_length_pos (by omega : 0 < q₁.length))
  have hperm₂ := perm_of_takeLeast hq₁
  refine ⟨a, b, q₂, hperm₁.trans (hperm₂.cons a), fun y hy => ?_, not_before_of_takeLeast hq₁, ?_⟩
  · exact not_before_of_takeLeast hq y (hperm₂.mem_iff.2 hy)
  · simp only [mergeAll, hq, hq₁]

/-- `mergeAll_induction` for what a merge keeps because it joins the two least. -/
theorem mergeAll_least_induction {P : List QItem → List Node → Prop}
    (hperm : ∀ q q' arena, P q arena → q.Perm q' → P q' arena)
    (hmerge : ∀ a b q arena, P (a :: b :: q) arena →
      (∀ y ∈ b :: q, ¬ y.before a = true) → (∀ y ∈ q, ¬ y.before b = true) →
      P ({ weight := a.weight + b.weight, index := arena.length } :: q)
        (arena ++ [Node.ofChildren (a.weight + b.weight) (BitVec.ofNat 9 a.index) (BitVec.ofNat 9 b.index)]))
    {k : Nat} {q : List QItem} {arena : List Node} (h : P q arena) (hne : q ≠ []) (hk : q.length ≤ k + 1) :
    ∃ x, P [x] (mergeAll k q arena) := by
  have hpos := List.length_pos_iff.2 hne
  induction k generalizing q arena with
  | zero =>
    obtain ⟨x, rfl⟩ := List.length_eq_one_iff.1 (Nat.le_antisymm hk hpos)
    exact ⟨x, h⟩
  | succ k ih =>
    by_cases hone : q.length = 1
    · obtain ⟨x, rfl⟩ := List.length_eq_one_iff.1 hone
      exact ⟨x, h⟩
    · obtain ⟨a, b, q', hp, ha, hb, heq⟩ := mergeAll_takes_two_least (k := k) (arena := arena) (by omega : 2 ≤ q.length)
      have hlen := hp.length_eq
      simp only [List.length_cons] at hlen
      rw [heq]
      refine ih (hmerge a b q' arena (hperm _ _ _ h hp) ha hb) (List.cons_ne_nil _ _) ?_ (Nat.succ_pos _)
      rw [List.length_cons]
      omega

/-! ### What the loop keeps -/

/-- Internal node `m` joins the least live node `l`, on the left, and the least of the others `r`, with their exact weight
(R140 to R142). -/
structure State.Joins (t : State) (m l r : Nat) : Prop where
  leaf : (t.nodeEntry m).leaf = false
  sym : (t.nodeEntry m).sym = 0#8
  left_live : t.LiveAt m l
  right_live : t.LiveAt m r
  ne : l ≠ r
  left_least : ∀ i, t.LiveAt m i → i ≠ l → t.Lighter l i
  right_least : ∀ i, t.LiveAt m i → i ≠ l → i ≠ r → t.Lighter r i
  weight : (t.nodeEntry m).weight.toNat = (t.nodeEntry l).weight.toNat + (t.nodeEntry r).weight.toNat

/-- What BuildMergesTheTwoLeast says of node `m`: it joins its own two children. -/
abbrev State.JoinsTwoLeast (t : State) (m : Nat) : Prop :=
  t.Joins m (t.nodeEntry m).left.toNat (t.nodeEntry m).right.toNat

/-- NODE of `t` begins with the arena. -/
def State.BeginsWith (t : State) (arena : List Node) : Prop :=
  ∀ k < arena.length, arena[k]? = some (t.nodeEntry k)

/-- The collection `q` when the first `m` nodes of `t` are made: it holds each live node once, with its weight, its weights
sum to TOTAL, and each internal node so far joined the two least. -/
structure State.Collects (t : State) (q : List QItem) (m : Nat) : Prop where
  leaves_le : t.nleaves.toNat ≤ m
  live : ∀ i, i ∈ q.map QItem.index ↔ t.LiveAt m i
  nodup : (q.map QItem.index).Nodup
  weight : ∀ x ∈ q, (t.nodeEntry x.index).weight = x.weight
  sum : (q.map fun x => x.weight.toNat).sum = t.total.toNat
  joins : ∀ k, t.nleaves.toNat ≤ k → k < m → t.JoinsTwoLeast k

theorem State.Collects.perm {q q' : List QItem} {m : Nat} (h : t.Collects q m) (hp : q.Perm q') : t.Collects q' m where
  leaves_le := h.leaves_le
  live i := by rw [← h.live, (hp.map _).mem_iff]
  nodup := (hp.map _).nodup_iff.1 h.nodup
  weight x hx := h.weight x (hp.mem_iff.2 hx)
  sum := by rw [← h.sum, (hp.map _).sum_eq]
  joins := h.joins

/-- The order of the collection is that of the nodes. -/
theorem State.Collects.lighter {q : List QItem} {m : Nat} {x y : QItem} (h : t.Collects q m) (hx : x ∈ q) (hy : y ∈ q)
    (hne : x.index ≠ y.index) (hle : ¬ y.before x = true) : t.Lighter x.index y.index := by
  rw [State.Lighter, h.weight x hx, h.weight y hy]
  rw [QItem.before_iff, ← BitVec.toNat_inj] at *
  omega

/-- A live node other than the first of the collection is one of the rest. -/
theorem State.Collects.exists_mem_tail {x : QItem} {q : List QItem} {m i : Nat} (h : t.Collects (x :: q) m)
    (hi : t.LiveAt m i) (hne : i ≠ x.index) : ∃ y ∈ q, y.index = i :=
  List.mem_map.1 ((List.mem_cons.1 ((h.live i).2 hi)).resolve_left hne)

/-- The last node made has no parent yet: every child is below its parent. -/
theorem State.liveAt_last {m : Nat} (hjoins : ∀ k, t.nleaves.toNat ≤ k → k ≤ m → t.JoinsTwoLeast k) :
    t.LiveAt (m + 1) m := by
  refine ⟨Nat.lt_succ_self m, fun k hk hkm => ?_⟩
  have hkm := Nat.le_of_lt_succ hkm
  have hjoin := hjoins k hk hkm
  exact ⟨(hjoin.left_live.1.trans_le hkm).ne, (hjoin.right_live.1.trans_le hkm).ne⟩

/-- Making node `m` takes its children from the live nodes and adds itself. -/
theorem State.liveAt_succ {m i : Nat} (hm : t.nleaves.toNat ≤ m)
    (hjoins : ∀ k, t.nleaves.toNat ≤ k → k ≤ m → t.JoinsTwoLeast k) :
    t.LiveAt (m + 1) i ↔
      i = m ∨ (t.LiveAt m i ∧ (t.nodeEntry m).left.toNat ≠ i ∧ (t.nodeEntry m).right.toNat ≠ i) := by
  constructor
  · rintro ⟨hi, hno⟩
    by_cases him : i = m
    · exact .inl him
    · exact .inr ⟨⟨by omega, fun k hk hkm => hno k hk (by omega)⟩, hno m hm (Nat.lt_succ_self m)⟩
  · rintro (rfl | ⟨⟨hi, hno⟩, hnew⟩)
    · exact State.liveAt_last hjoins
    · refine ⟨by omega, fun k hk hkm => ?_⟩
      rcases Nat.lt_succ_iff_lt_or_eq.1 hkm with hkm | rfl
      · exact hno k hk hkm
      · exact hnew

section
variable {a b : QItem} {q : List QItem} {m : Nat} {l r : NodeIdx} (h : t.Collects (a :: b :: q) m)
  (ha : ∀ y ∈ b :: q, ¬ y.before a = true) (hb : ∀ y ∈ q, ¬ y.before b = true)
  (hl : l.toNat = a.index) (hr : r.toNat = b.index) (hm : t.nodeEntry m = Node.ofChildren (a.weight + b.weight) l r)
include h

/-- The sum of two weights in the collection does not wrap: it is at most TOTAL (R146 item 3). -/
theorem State.Collects.weight_add : (a.weight + b.weight).toNat = a.weight.toNat + b.weight.toNat := by
  have hsum := h.sum
  have hlt := t.total.isLt
  simp only [List.map_cons, List.sum_cons] at hsum
  rw [BitVec.toNat_add]
  omega

include ha hb hl hr hm

/-- The node made of the two least of the collection joins the two least live nodes. -/
theorem State.Collects.joinsTwoLeast : t.JoinsTwoLeast m := by
  have hmema : a ∈ a :: b :: q := List.mem_cons_self
  have hmemb : b ∈ a :: b :: q := List.mem_cons_of_mem a List.mem_cons_self
  have hne : a.index ≠ b.index := fun heq => (List.nodup_cons.1 h.nodup).1 (heq ▸ List.mem_cons_self)
  have hjoins : t.Joins m l.toNat r.toNat := by
    rw [hl, hr]
    refine ⟨by rw [hm]; rfl, by rw [hm]; rfl, (h.live _).1 (List.mem_map_of_mem hmema),
      (h.live _).1 (List.mem_map_of_mem hmemb), hne, fun i hi hia => ?_, fun i hi hia hib => ?_, ?_⟩
    · obtain ⟨y, hy, rfl⟩ := h.exists_mem_tail hi hia
      exact h.lighter hmema (List.mem_cons_of_mem a hy) hia.symm (ha y hy)
    · obtain ⟨y, hy, rfl⟩ := h.exists_mem_tail hi hia
      have hyq : y ∈ q := (List.mem_cons.1 hy).resolve_left fun heq => hib (congrArg _ heq)
      exact h.lighter hmemb (List.mem_cons_of_mem a hy) hib.symm (hb y hyq)
    · rw [h.weight a hmema, h.weight b hmemb, ← h.weight_add, hm]
      rfl
  rw [State.JoinsTwoLeast, hm]
  exact hjoins

/-- One merge of the two least: the new node takes their place in the collection. -/
theorem State.Collects.merge : t.Collects ({ weight := a.weight + b.weight, index := m } :: q) (m + 1) := by
  have hjoins : ∀ k, t.nleaves.toNat ≤ k → k ≤ m → t.JoinsTwoLeast k := fun k hk hkm =>
    (Nat.lt_or_eq_of_le hkm).elim (h.joins k hk) fun heq => heq ▸ h.joinsTwoLeast ha hb hl hr hm
  have hleft : (t.nodeEntry m).left.toNat = a.index := by rw [hm, ← hl]; rfl
  have hright : (t.nodeEntry m).right.toNat = b.index := by rw [hm, ← hr]; rfl
  have hnodup := h.nodup
  simp only [List.map_cons, List.nodup_cons, List.mem_cons, not_or] at hnodup
  obtain ⟨⟨hab, haq⟩, hbq, hq⟩ := hnodup
  refine ⟨h.leaves_le.trans (Nat.le_succ m), fun i => ?_, ?_, ?_, ?_, fun k hk hkm => hjoins k hk (Nat.le_of_lt_succ hkm)⟩
  · rw [State.liveAt_succ h.leaves_le hjoins, ← h.live, hleft, hright]
    simp only [List.map_cons, List.mem_cons]
    refine or_congr_right ⟨fun hi => ⟨.inr (.inr hi), fun heq => haq (heq ▸ hi), fun heq => hbq (heq ▸ hi)⟩, ?_⟩
    rintro ⟨rfl | rfl | hi, hia, hib⟩
    · exact absurd rfl hia
    · exact absurd rfl hib
    · exact hi
  · refine List.nodup_cons.2 ⟨fun hmem => ?_, hq⟩
    exact Nat.lt_irrefl m ((h.live m).1 (List.mem_cons_of_mem _ (List.mem_cons_of_mem _ hmem))).1
  · refine List.forall_mem_cons.2 ⟨by rw [hm]; rfl, fun x hx => ?_⟩
    exact h.weight x (List.mem_cons_of_mem a (List.mem_cons_of_mem b hx))
  · rw [← h.sum]
    simp only [List.map_cons, List.sum_cons, h.weight_add, Nat.add_assoc]

end

/-! ### The collection at the beginning and at the end -/

theorem seedQueue_map_index (leaves : List Node) : (seedQueue leaves).map QItem.index = List.range leaves.length := by
  simp [seedQueue, List.zipIdx_map_snd, List.range_eq_range', Function.comp_def]

theorem seedQueue_map_weight (leaves : List Node) :
    ((seedQueue leaves).map fun x => x.weight.toNat) = leaves.map fun nd => nd.weight.toNat := by
  conv_rhs => rw [← List.zipIdx_map_fst 0 leaves]
  simp only [seedQueue, List.map_map, Function.comp_def]

/-- The leaves weigh as much as FREQ: the symbols without a leaf count 0. -/
theorem State.sum_seedLeaves (s : State) : (s.seedLeaves.map fun nd => nd.weight.toNat).sum = s.freqSum := by
  have hall : s.freqSum = (allSymbols.map fun sym => (s.freqAt sym).toNat).sum := by
    rw [allSymbols, List.map_map]
    rfl
  have hpresent : ((fun n : Nat => n != 0) ∘ fun sym => (s.freqAt sym).toNat) = fun sym => s.freqAt sym != 0#32 := by
    funext sym
    rw [Bool.eq_iff_iff, Function.comp_apply, bne_iff_ne, bne_iff_ne, BitVec.toNat_ne]
    rfl
  rw [hall, ← List.sum_filter_bne_zero (allSymbols.map _), List.filter_map, hpresent, State.seedLeaves_eq_map,
    List.map_map]
  rfl

theorem State.BeginsWith.of_append {arena ns : List Node} (h : t.BeginsWith (arena ++ ns)) : t.BeginsWith arena := by
  intro k hk
  rw [← h k (by rw [List.length_append]; omega), List.getElem?_append_left hk]

/-- The seeded collection: the leaves, all live. -/
theorem State.seed_collects (h : s.TotalOk) (hbegin : s.withTree.BeginsWith s.seedLeaves) :
    s.withTree.Collects (seedQueue s.seedLeaves) s.seedLeaves.length := by
  have hn := s.withTree_nleaves_toNat
  refine ⟨hn.le, fun i => ?_, ?_, ?_, ?_, fun k hk hkn => absurd hkn (Nat.not_lt.2 (hn ▸ hk))⟩
  · rw [seedQueue_map_index, List.mem_range]
    exact ⟨fun hi => ⟨hi, fun k hk hkn => absurd hkn (Nat.not_lt.2 (hn ▸ hk))⟩, And.left⟩
  · rw [seedQueue_map_index]
    exact List.nodup_range
  · intro x hx
    obtain ⟨⟨nd, k⟩, hmem, rfl⟩ := List.mem_map.1 hx
    have hk := List.mem_zipIdx_iff_getElem?.1 hmem
    rw [hbegin k (List.getElem?_eq_some_iff.1 hk).1] at hk
    rw [Option.some.inj hk]
  · rw [seedQueue_map_weight, State.sum_seedLeaves, State.withTree_total, h]

/-- What every pass of R140's loop keeps: the arena is one of BUILD's, and the collection is that of the final state, if its
NODE begins with the arena. -/
structure State.LoopOk (s : State) (q : List QItem) (arena : List Node) : Prop where
  base : ArenaOk s.seedLeaves.length q arena
  collects : s.withTree.BeginsWith arena → s.withTree.Collects q arena.length

theorem State.LoopOk.merge {a b : QItem} {q : List QItem} {arena : List Node} (h : s.LoopOk (a :: b :: q) arena)
    (ha : ∀ y ∈ b :: q, ¬ y.before a = true) (hb : ∀ y ∈ q, ¬ y.before b = true) :
    s.LoopOk ({ weight := a.weight + b.weight, index := arena.length } :: q)
      (arena ++ [Node.ofChildren (a.weight + b.weight) (BitVec.ofNat 9 a.index) (BitVec.ofNat 9 b.index)]) := by
  have hfit : ∀ x ∈ a :: b :: q, (BitVec.ofNat 9 x.index).toNat = x.index := fun _ hx =>
    h.base.toNat_ofNat_index s.seedLeaves_length_le hx
  refine ⟨h.base.merge s.seedLeaves_length_le _, fun hbegin => ?_⟩
  have hnew := hbegin arena.length (by simp)
  rw [List.getElem?_concat_length] at hnew
  rw [List.length_append, List.length_singleton]
  exact (h.collects hbegin.of_append).merge ha hb (hfit a List.mem_cons_self)
    (hfit b (List.mem_cons_of_mem a List.mem_cons_self)) (Option.some.inj hnew).symm

/-- BUILD's loop ends with one node in the collection, the root (R143). -/
theorem State.withTree_collects (hwf : Memory.wf Node.blank Config.nodeCap s.node = true) (h : s.TotalOk)
    (hne : s.seedLeaves ≠ []) : ∃ x, s.withTree.Collects [x] s.withTree.nnodes.toNat := by
  obtain ⟨x, hx⟩ : ∃ x, s.LoopOk [x] s.treeArena :=
    mergeAll_least_induction (fun _ _ _ h hp => ⟨h.base.perm hp, fun hbegin => (h.collects hbegin).perm hp⟩)
      (fun _ _ _ _ h ha hb => h.merge ha hb) ⟨State.seed_arenaOk hne, State.seed_collects h⟩
      (by simpa [seedQueue] using hne) (by simp)
  refine ⟨x, s.withTree_nnodes_toNat ▸ hx.collects fun k hk => ?_⟩
  exact State.treeArena_getElem?_eq_withTree hwf (by rwa [State.withTree_nnodes_toNat])

/-- Settles O24: every internal node joined the two least of the loop's collection (`State.withTree_collects`). -/
theorem buildMergesTheTwoLeast : Obligations.BuildMergesTheTwoLeast := by
  intro s ⟨_, hwf, _⟩ h hp
  refine ⟨_, exec_build_idle hp, fun m hm hmn => ?_⟩
  have hne : s.seedLeaves ≠ [] := fun h0 => by
    rw [State.respond_nnodes, State.withTree_nnodes_toNat, State.treeArena_of_nil h0] at hmn
    exact Nat.not_lt_zero m hmn
  obtain ⟨x, hx⟩ := State.withTree_collects hwf h hne
  obtain ⟨hleaf, hsym, hl, hr, hlr, hleast, hnext, hweight⟩ := hx.joins m hm hmn
  exact ⟨hleaf, hsym, hl, hr, hlr, hleast, hnext, hweight⟩

/-! ### The tree -/

section
variable {q : List QItem} {x : QItem} {i m m' : Nat}

/-- A child is live when its parent is made. -/
theorem State.Collects.liveAt_of_childOf (h : t.Collects q t.nnodes.toNat) (hi : t.ChildOf i m) : t.LiveAt m i := by
  obtain ⟨hm, hmn, rfl | rfl⟩ := hi
  · exact (h.joins m hm hmn).left_live
  · exact (h.joins m hm hmn).right_live

theorem State.ChildOf.not_liveAt (hi : t.ChildOf i m) (hlt : m < m') : ¬ t.LiveAt m' i := by
  rintro ⟨-, hno⟩
  obtain ⟨hm, -, hchild⟩ := hi
  obtain ⟨hl, hr⟩ := hno m hm hlt
  exact hchild.elim hl hr

/-- No node has two parents: it would be live when the second is made. -/
theorem State.Collects.parent_unique (h : t.Collects q t.nnodes.toNat) (hi : t.ChildOf i m) (hi' : t.ChildOf i m') :
    m = m' := by
  rcases Nat.lt_trichotomy m m' with hlt | heq | hgt
  · exact absurd (h.liveAt_of_childOf hi') (hi.not_liveAt hlt)
  · exact heq
  · exact absurd (h.liveAt_of_childOf hi) (hi'.not_liveAt hgt)

/-- A node that is not live at the end has a parent. -/
theorem State.exists_childOf (hi : i < t.nnodes.toNat) (hnot : ¬ t.LiveAt t.nnodes.toNat i) : ∃ m, t.ChildOf i m := by
  by_contra hno
  refine hnot ⟨hi, fun k hk hkn => ?_⟩
  exact ⟨fun hl => hno ⟨k, hk, hkn, .inl hl⟩, fun hr => hno ⟨k, hk, hkn, .inr hr⟩⟩

/-- At the end only the last element of the collection is live: the root. -/
theorem State.Collects.liveAt_singleton (h : t.Collects [x] m) : t.LiveAt m i ↔ i = x.index := by
  rw [← h.live, List.map_singleton, List.mem_singleton]

end

/-- The last element of the collection is ROOT, the last node made. -/
theorem State.Collects.root_eq {x : QItem} (h : s.withTree.Collects [x] s.withTree.nnodes.toNat)
    (hne : s.seedLeaves ≠ []) : s.withTree.root.toNat = x.index := by
  have hlen := State.treeArena_length hne
  have hpos := List.length_pos_iff.2 hne
  have hnodes := s.withTree_nnodes_toNat
  have hroot := s.withTree_root_toNat
  have hsucc : s.withTree.nnodes.toNat = s.withTree.root.toNat + 1 := by omega
  rw [hsucc] at h
  exact h.liveAt_singleton.1 (State.liveAt_last fun k hk hkm => h.joins k hk (Nat.lt_succ_of_le hkm))

/-- Settles O25: at the end of BUILD's loop the root alone is live. -/
theorem buildMakesATree : Obligations.BuildMakesATree := by
  intro s ⟨_, hwf, _⟩ h hp hpresent
  have hne : s.seedLeaves ≠ [] := by rwa [State.seedLeaves_eq_map, Ne, List.map_eq_nil_iff]
  obtain ⟨x, hx⟩ := State.withTree_collects hwf h hne
  have hroot := hx.root_eq hne
  refine ⟨_, exec_build_idle hp, fun i m hi => (hx.liveAt_of_childOf hi).1, fun i hi hir => ?_, fun m hm => ?_, ?_⟩
  · obtain ⟨m, hm⟩ := State.exists_childOf hi fun hlive => hir ((hx.liveAt_singleton.1 hlive).trans hroot.symm)
    exact ⟨m, hm, fun m' hm' => hx.parent_unique hm' hm⟩
  · exact State.ChildOf.not_liveAt hm hm.2.1 (hx.liveAt_singleton.2 hroot)
  · have hsum : x.weight.toNat = s.total.toNat := by simpa using hx.sum
    rw [State.respond_nodeEntry, State.respond_root, hroot, hx.weight x List.mem_cons_self]
    exact BitVec.eq_of_toNat_eq hsum

end Sys2Proof.Machine

namespace Sys2Proof.Machine

variable {s : State}

/-! ## The walk over codes -/

/-- A walk from an internal node along a path to a leaf puts out the leaf's symbol alone, and goes back to ROOT (R201). -/
theorem State.LeafPath.walkBits {i : NodeIdx} {p : List Bool} {sym : Byte} (h : s.LeafPath i p sym)
    (hinner : (s.nodeEntry i.toNat).leaf = false) : s.walkBits i p = ([sym], s.root) := by
  induction p generalizing i with
  | nil => exact absurd h.1 (by simp [hinner])
  | cons bit p ih =>
    obtain ⟨-, hrest⟩ := h
    rw [State.walkBits]
    cases p with
    | nil =>
      obtain ⟨hleaf, hsym⟩ := hrest
      rw [if_pos hleaf, hsym]
      rfl
    | cons bit' p =>
      rw [if_neg (by simp [hrest.1])]
      exact ih hrest hrest.1

/-- A symbol's code takes the walk from ROOT to the symbol and back (R163 item 5). -/
theorem State.Coded.walkBits_codeOf {codes : List CodeEntry} (h : s.Coded codes) {sym : Byte}
    (hne : s.clenAt sym ≠ 0#8) : s.walkBits s.root (s.codeOf sym) = ([sym], s.root) :=
  (h.codeOf_leafPath hne).walkBits (h.tree.root_inner h.shape).2

/-- Settles O43, by induction on the sequence: after each code the walk stands at ROOT again. -/
theorem walkOverCodesGivesTheSymbols : Obligations.WalkOverCodesGivesTheSymbols := by
  intro s S hi hcv hg hS
  obtain ⟨codes, h⟩ := hi.coded hcv hg
  induction S with
  | nil => rfl
  | cons x S ih =>
    obtain ⟨hx, hS⟩ := List.forall_mem_cons.1 hS
    rw [List.flatMap_cons, State.walkBits_append, h.walkBits_codeOf hx, ih hS]
    rfl

end Sys2Proof.Machine

namespace Sys2Proof.Machine

variable {s t : State}

/-! ## The fatal errors of the packer -/

/-- No code is packed beyond OUTBUF. -/
theorem packCode_outlen_le {code : CodeBits} {j : Nat} (h : packCode code j s = .ok t)
    (hle : s.outlen.toNat ≤ s.outcap.toNat) : t.outlen.toNat ≤ t.outcap.toNat := by
  induction j generalizing s with
  | zero => cases h; exact hle
  | succ j ih =>
    rw [packCode] at h
    split at h
    · rename_i u hu
      exact ih h (State.packBit_outlen_le hu hle)
    · cases h

/-- A code that completes a byte beyond OUTBUF ends in E_OUT_OVF: packed, it would count more bits than OUTBUF and ACC
hold. -/
theorem packCode_full (code : CodeBits) {j : Nat} (hle : s.outlen.toNat ≤ s.outcap.toNat)
    (hfull : s.outcap.toNat < s.outlen.toNat + (s.accn.toNat + j) / 8) :
    packCode code j s = .error (.fatal .outOvf) := by
  cases h : packCode code j s with
  | error e => rw [packCode_error hle h]
  | ok t =>
    have hcount := packCode_count h
    have hfits := packCode_outlen_le h hle
    have hcap : t.outcap = s.outcap := by rw [packCode_frame h]
    have hpending := t.accn.isLt
    rw [hcap] at hfits
    omega

/-- Settles O34: ENCB's checks in their order, the last by `packCode_full`. -/
theorem encbFatalChecksInOrder : Obligations.EncbFatalChecksInOrder := by
  intro s sym hp
  have hzero : s.clenAt sym = 0#8 ↔ (s.clenAt sym).toNat = 0 := BitVec.toNat_inj.symm
  simp only [exec, execEncb, packerPhase hp, State.command_true]
  refine ⟨fun hnone => ?_, fun hlen hover => ?_, fun hlen hbits hle hfull => ?_⟩
  · rw [if_pos (hzero.1 hnone)]
    rfl
  · rw [if_neg (hlen ∘ hzero.2), if_pos hover]
    rfl
  · rw [if_neg (hlen ∘ hzero.2), if_neg (Nat.not_lt.2 hbits), packCode_full _ hle hfull]
    rfl

/-- A flush with bits pending and OUTBUF full ends in E_OUT_OVF. -/
theorem State.flush_full (hn : s.accn ≠ 0#3) (hfull : s.outlen = s.outcap) :
    s.flush = .error (.fatal .outOvf) := by
  rw [State.flush, if_neg hn, State.emit_full hfull]

/-- Settles O36: the padded byte does not fit (`State.flush_full`). -/
theorem encfOverflowIsFatal : Obligations.EncfOverflowIsFatal := by
  intro s hp hn hfull
  simp only [exec, execEncf, packerPhase hp, State.command_true, State.flush_full hn hfull, State.finish_fatal]
  rfl

end Sys2Proof.Machine

namespace Sys2Proof.Machine

variable {s t : State}

/-! ## The overflow of the unpacker -/

/-- A DECB whose loop meets a full OUTBUF is undone (R245). -/
theorem exec_decb_of_outOvf {b : Byte} (hp : s.phase = .decoding) (ha : s.shape ≠ .absent)
    (hu : unpackByte b 8 s = .error (.fatal .outOvf)) : exec (.decb b) s = .next (s.Failed 0x21#8) := by
  simp only [exec, execDecb, hp, beq_self_eq_true, State.command_true, if_neg ha, hu, State.finish_fatal]
  rfl

/-- A single leaf whose symbol does not fit for every bit below DEC_TARGET ends in E_OUT_OVF: the bits that fit go by
as in `State.unpackBit_single`, and then one meets a full OUTBUF. -/
theorem unpackByte_single_full (hwf : Memory.wf 0#8 s.outcap.toNat s.outbuf = true) (hs : s.shape = .single)
    (hle : s.outlen.toNat ≤ s.outcap.toNat) (b : Byte) {i : Nat}
    (hfull : s.outcap.toNat < s.outlen.toNat + min i (s.decTarget.toNat - s.decConsumed.toNat)) :
    unpackByte b i s = .error (.fatal .outOvf) := by
  induction i generalizing s with
  | zero => omega
  | succ i ih =>
    have hlt : s.decConsumed.toNat < s.decTarget.toNat := by omega
    rcases hle.lt_or_eq with hroom | hend
    · obtain ⟨t, ht, hbit⟩ := State.unpackBit_single hwf hs hlt hroom (b.getLsbD i)
      have hlen := hbit.outlen
      have hcons := hbit.consumed
      have htarget : t.decTarget = s.decTarget := by rw [hbit.frame]
      have hcap : t.outcap = s.outcap := by rw [hbit.frame]
      rw [unpackByte, ht]
      refine ih hbit.grows.wf (by rw [hbit.frame]; exact hs) ?_ ?_ <;> rw [hcap]
      · omega
      · rw [htarget]
        omega
    · have hbit : s.unpackBit (b.getLsbD i) = .error (.fatal .outOvf) := by
        unfold State.unpackBit
        rw [if_pos hlt]
        exact (if_pos hs).trans (State.emit_full (BitVec.eq_of_toNat_eq hend))
      rw [unpackByte, hbit]

/-- Settles O41: with a general tree the walk ends early only on a full OUTBUF (`State.UnpackSafe.unpackByte_walks`), and a
walk to the end puts out no more than fits; a single leaf is `unpackByte_single_full`. -/
theorem decbOverflowIsFatal : Obligations.DecbOverflowIsFatal := by
  intro s b hi hp
  obtain ⟨-, -, -, -, hwf⟩ := hi.mem
  obtain ⟨-, hle, -, -⟩ := hi.bounds
  refine ⟨fun hg hfull => ?_, fun hs hfull => ?_⟩
  · have ha : s.shape ≠ .absent := by simp [hg]
    obtain ⟨u, hu, h⟩ | ⟨he, -⟩ := (hi.unpackSafe hp ha).unpackByte_walks hwf hg b 8
    · obtain ⟨-, -, ⟨-, hfits, -⟩, -⟩ := hi.regsOk.of_unpackByte hp ha hu
      have hcap : u.outcap = s.outcap := by rw [h.frame]
      rw [h.outlen, hcap] at hfits
      exact absurd hfull (Nat.not_lt.2 hfits)
    · exact exec_decb_of_outOvf hp ha he
  · exact exec_decb_of_outOvf hp (by simp [hs]) (unpackByte_single_full hwf hs hle b hfull)

end Sys2Proof.Machine

namespace Sys2Proof.Machine

variable {s t u : State}

/-! ## Sequences of commands -/

theorem runAll_cons_next {i : Instr} {is : List Instr} :
    runAll (i :: is) s = .next u ↔ ∃ t, exec i s = .next t ∧ runAll is t = .next u := by
  rw [runAll]
  cases exec i s <;> simp

/-- Two sequences, one after the other. -/
theorem runAll_append_next {is js : List Instr} :
    runAll (is ++ js) s = .next u ↔ ∃ t, runAll is s = .next t ∧ runAll js t = .next u := by
  induction is generalizing s with
  | nil => simp [runAll]
  | cons i is ih =>
    simp only [List.cons_append, runAll_cons_next, ih]
    constructor
    · rintro ⟨v, hv, t, ht, hu⟩
      exact ⟨t, ⟨v, hv, ht⟩, hu⟩
    · rintro ⟨t, ⟨v, hv, ht⟩, hu⟩
      exact ⟨v, hv, t, ht, hu⟩

/-- What each command of a sequence keeps, the sequence keeps. -/
theorem runAll_keeps {P : State → Prop} {is : List Instr}
    (hkeeps : ∀ i ∈ is, ∀ v w, exec i v = .next w → P v → P w) (hrun : runAll is s = .next t) (h : P s) : P t := by
  induction is generalizing s with
  | nil => cases hrun; exact h
  | cons i is ih =>
    obtain ⟨v, hv, hrun⟩ := runAll_cons_next.1 hrun
    obtain ⟨hi, his⟩ := List.forall_mem_cons.1 hkeeps
    exact ih his hrun (hi s v hv h)

theorem State.Inv.of_runAll {is : List Instr} (h : s.Inv) (hrun : runAll is s = .next t) : t.Inv :=
  runAll_keeps (fun _ _ _ _ hx h => h.of_exec hx) hrun h

theorem exec_outcap_eq {i : Instr} (hx : exec i s = .next t) : t.outcap = s.outcap :=
  exec_keeps (P := fun v => v.outcap = s.outcap) (fun _ _ h => h) (fun _ _ h => h)
    (fun _ _ _ he h => he.outcap_eq.trans h) rfl hx

theorem runAll_outcap_eq {is : List Instr} (hrun : runAll is s = .next t) : t.outcap = s.outcap :=
  runAll_keeps (P := fun v => v.outcap = s.outcap) (fun _ _ _ _ hx h => (exec_outcap_eq hx).trans h) hrun rfl

/-! ## The command sequence of `encode` -/

/-- No session has been opened: a phase before ENCODING and DECODING, or ERROR. -/
def State.Unopened (s : State) : Prop :=
  s.phase ≠ .encoding ∧ s.phase ≠ .decoding ∧ s.phase ≠ .done

/-- FACC, BUILD and GENC open no session. -/
theorem exec_keeps_unopened {S : List Byte} {i : Instr} (hi : i ∈ faccs S ++ [.build, .genc]) (hx : exec i s = .next t)
    (h : s.Unopened) : t.Unopened := by
  obtain ⟨u, d, he, rfl⟩ | ⟨c, rfl⟩ | ⟨c, -, rfl⟩ := exec_next_cases hx
  · have hi : (∃ x, .facc x = i) ∨ i = .build ∨ i = .genc := by
      simp only [List.mem_append, List.mem_cons, List.not_mem_nil, or_false, faccs, List.mem_map] at hi
      exact hi.imp_left fun ⟨x, _, hx⟩ => ⟨x, hx⟩
    obtain ⟨x, rfl⟩ | rfl | rfl := hi <;> cases he
    · exact h
    all_goals simp [State.Unopened]
  · exact h
  · simp [State.Unopened]

/-- All but the packer's registers, OUTBUF, OUTLEN, PHASE and the ports is as before. -/
abbrev State.PackerFrame (s t : State) : Prop :=
  t = { s with
    acc := t.acc, accn := t.accn, outbuf := t.outbuf, outlen := t.outlen, encBits := t.encBits, phase := t.phase,
    port := t.port }

/-- A symbol's code is packed, the whole of it (R180). -/
structure State.Encb (s : State) (x : Byte) (t : State) : Prop where
  coded : s.clenAt x ≠ 0#8
  taken : t.takenBits = s.takenBits ++ s.codeOf x
  count : t.encBits.toNat = s.encBits.toNat + (s.clenAt x).toNat
  frame : s.PackerFrame t

/-- ENCB in CODED or ENCODING ends in ERROR, or with the symbol's code packed. -/
theorem exec_encb_cases {x : Byte} (hi : s.Inv) (hp : s.phase = .coded ∨ s.phase = .encoding)
    (hx : exec (.encb x) s = .next t) : t.phase = .error ∨ (t.phase = .encoding ∧ s.Encb x t) := by
  obtain ⟨hnone, hbits, hfull⟩ := encbFatalChecksInOrder s x hp
  by_cases hlen : s.clenAt x = 0#8
  · rw [hnone hlen] at hx
    cases hx
    exact .inl rfl
  by_cases hover : 2 ^ 40 - 1 < s.encBits.toNat + (s.clenAt x).toNat
  · rw [hbits hlen hover] at hx
    cases hx
    exact .inl rfl
  by_cases hroom : s.outlen.toNat + (s.accn.toNat + (s.clenAt x).toNat) / 8 ≤ s.outcap.toNat
  · obtain ⟨u, hu, htaken, -, hcount, hphase, -, hframe, -⟩ :=
      encbAppendsTheCode s x hi.mem hp hlen (Nat.not_lt.1 hover) hroom
    rw [hu] at hx
    cases hx
    exact .inr ⟨hphase, hlen, htaken, hcount, hframe⟩
  · rw [hfull hlen (Nat.not_lt.1 hover) hi.bounds.2.1 (Nat.not_le.1 hroom)] at hx
    cases hx
    exact .inl rfl

/-- `t` is `s` with the codes of `S` packed and the last byte padded (R180, R181). -/
structure State.EncodesTo (s : State) (S : List Byte) (t : State) : Prop where
  coded : ∀ x ∈ S, s.clenAt x ≠ 0#8
  bits : s.takenBits ++ S.flatMap s.codeOf <+: bitsOfBytes t.outBytes
  count : t.encBits.toNat = s.encBits.toNat + (S.flatMap s.codeOf).length
  outlen : t.outlen.toNat = (t.encBits.toNat + 7) / 8
  frame : s.PackerFrame t

theorem State.EncodesTo.cons {x : Byte} {S : List Byte} (h : s.Encb x t) (h' : t.EncodesTo S u) :
    s.EncodesTo (x :: S) u := by
  have hclen : t.clenAt = s.clenAt := by rw [h.frame]; rfl
  have hcode : t.codeOf = s.codeOf := by rw [h.frame]; rfl
  refine ⟨List.forall_mem_cons.2 ⟨h.coded, hclen ▸ h'.coded⟩, ?_, ?_, h'.outlen, ?_⟩
  · rw [List.flatMap_cons, ← List.append_assoc, ← h.taken, ← hcode]
    exact h'.bits
  · rw [h'.count, h.count, hcode, List.flatMap_cons, List.length_append, State.codeOf, lowBits_length, Nat.add_assoc]
  · have := h'.frame
    rw [h.frame] at this
    exact this

/-- ENCF in CODED or ENCODING ends in ERROR, or with the last byte padded. -/
theorem exec_encf_cases (hi : s.Inv) (hp : s.phase = .coded ∨ s.phase = .encoding) (hx : exec .encf s = .next t) :
    t.phase = .error ∨ s.EncodesTo [] t := by
  by_cases hroom : s.accn ≠ 0#3 → s.outlen.toNat < s.outcap.toNat
  · obtain ⟨u, hu, hbits, hlen, -, -, -, -, hframe, -⟩ := encfPadsAndFlushes s hi.mem hi.packer hp hroom
    rw [hu] at hx
    cases hx
    have hcount : t.encBits = s.encBits := by rw [hframe]
    refine .inr ⟨by simp, ?_, by rw [hcount]; rfl, by rw [hcount]; exact hlen, ?_⟩
    · rw [List.flatMap_nil, List.append_nil, hbits]
      exact List.prefix_append ..
    · rw [State.PackerFrame, hcount]
      exact hframe
  · obtain ⟨hn, hlt⟩ := Classical.not_imp.1 hroom
    have hfull : s.outlen = s.outcap := BitVec.eq_of_toNat_eq (Nat.le_antisymm hi.bounds.2.1 (Nat.not_lt.1 hlt))
    rw [encfOverflowIsFatal s hp hn hfull] at hx
    cases hx
    exact .inl rfl

/-- ENCB and ENCF outside CODED and ENCODING change no phase (R89). -/
theorem exec_packer_phase_eq {i : Instr} (hi : i = .encf ∨ ∃ x, i = .encb x)
    (hp : ¬ (s.phase = .coded ∨ s.phase = .encoding)) (hx : exec i s = .next t) : t.phase = s.phase := by
  have hl : phaseLegal i s = false := by obtain rfl | ⟨x, rfl⟩ := hi <;> simpa [phaseLegal] using hp
  rw [wrongPhaseIsRejected i s hl] at hx
  cases hx
  rfl

/-- ENCBs and ENCF that lead to DONE began in CODED or ENCODING, and none of them failed: in no other phase and from no
ERROR do they reach it. -/
theorem runAll_encs_done {S : List Byte} (hi : s.Inv) (hrun : runAll (encs S ++ [.encf]) s = .next t)
    (hdone : t.phase = .done) (hs : s.phase ≠ .done) :
    (s.phase = .coded ∨ s.phase = .encoding) ∧ s.EncodesTo S t := by
  induction S generalizing s with
  | nil =>
    obtain ⟨v, hv, hrun⟩ := runAll_cons_next.1 hrun
    cases hrun
    have hp : s.phase = .coded ∨ s.phase = .encoding := by
      by_contra hp
      exact hs ((exec_packer_phase_eq (.inl rfl) hp hv).symm.trans hdone)
    refine ⟨hp, (exec_encf_cases hi hp hv).resolve_left fun he => ?_⟩
    rw [hdone] at he
    cases he
  | cons x S ih =>
    obtain ⟨v, hv, hrun⟩ := runAll_cons_next.1 hrun
    have hrest := ih (hi.of_exec hv) hrun
    have hp : s.phase = .coded ∨ s.phase = .encoding := by
      by_contra hp
      have heq := exec_packer_phase_eq (.inr ⟨x, rfl⟩) hp hv
      rw [heq] at hrest
      exact hp (hrest hs).1
    refine ⟨hp, ?_⟩
    obtain herr | ⟨henc, hcode⟩ := exec_encb_cases hi hp hv
    · simp [herr] at hrest
    · exact .cons hcode (hrest (by simp [henc])).2

/-- What an `encode` of `S` that has ended in DONE leaves: a code for each symbol of `S`, the codes in OUTBUF and their
length in ENC_BITS, and nothing read yet (R225). -/
structure State.EncodeDone (t : State) (S : List Byte) : Prop where
  inv : t.Inv
  phase : t.phase = .done
  cv : t.cv = true
  coded : ∀ x ∈ S, t.clenAt x ≠ 0#8
  bits : S.flatMap t.codeOf <+: bitsOfBytes t.outBytes
  count : t.encBits.toNat = (S.flatMap t.codeOf).length
  outlen : t.outlen.toNat = (t.encBits.toNat + 7) / 8
  rdptr : t.rdptr = 0#40

/-- The commands before the ENCBs open no session, so a run that ends in DONE has been in CODED before them, where the
session registers are clear (R51 item 5). -/
theorem runAll_encodeOp_done {S : List Byte} (hi : s.Inv) (hrun : runAll (encodeOp S) s = .next t)
    (hdone : t.phase = .done) : t.EncodeDone S := by
  have hop : encodeOp S = [.clr] ++ ((faccs S ++ [.build, .genc]) ++ (encs S ++ [.encf])) := by
    simp [encodeOp, encodeFeed]
  have htinv := hi.of_runAll hrun
  rw [hop] at hrun
  obtain ⟨v, hv, hrun⟩ := runAll_append_next.1 hrun
  obtain ⟨w, hw, hrun⟩ := runAll_append_next.1 hrun
  have hwinv := (hi.of_runAll hv).of_runAll hw
  have hvopen : v.Unopened := by
    cases hv
    simp [State.Unopened]
  obtain ⟨henc, -, hne⟩ := runAll_keeps (fun _ hi _ _ hx h => exec_keeps_unopened hi hx h) hw hvopen
  obtain ⟨hp, h⟩ := runAll_encs_done hwinv hrun hdone hne
  have hcoded := hp.resolve_right henc
  obtain ⟨hbits0, -, hn0, -, -, hlen0, hrd0, -⟩ := hwinv.session.1 (.inr (.inr hcoded))
  have hclen : t.clenAt = w.clenAt := by rw [h.frame]; rfl
  have hcode : t.codeOf = w.codeOf := by rw [h.frame]; rfl
  have htaken : w.takenBits = [] := by simp [State.takenBits, State.outBytes, hn0, hlen0, bitsOfBytes, lowBits]
  refine ⟨htinv, hdone, ?_, hclen ▸ h.coded, ?_, ?_, h.outlen, ?_⟩
  · rw [h.frame]
    exact hwinv.phase.2.2.1 hp
  · rw [hcode]
    simpa [htaken] using h.bits
  · rw [hcode, h.count, hbits0, BitVec.toNat_zero, Nat.zero_add]
  · rw [h.frame]
    exact hrd0

end Sys2Proof.Machine

namespace Sys2Proof.Machine

variable {s t u : State}

/-! ## What the operation `encode` gives -/

/-- One command more that answers OK. -/
theorem askAll_concat {is : List Instr} {i : Instr} {ds : List Data} {d : Data} (h : askAll is s = .ok ds t)
    (hi : ask i t = .ok d u) : askAll (is ++ [i]) s = .ok (ds ++ [d]) u :=
  askAll_append_ok.2 ⟨ds, t, [d], h, askAll_cons_ok.2 ⟨d, u, [], hi, askAll_nil, rfl⟩, rfl⟩

theorem RejectCode.bits_ne_statusOk (c : RejectCode) : c.bits ≠ statusOk := by
  cases c <;> decide

/-- ENCF that answers OK has led to DONE, and its DATA is ENC_BITS (R181). -/
theorem ask_encf_ok {d : Data} (h : ask .encf s = .ok d t) : t.phase = .done ∧ d = t.encBits := by
  obtain ⟨u, w, hx, hw, hst, rfl, rfl⟩ := ask_ok h
  rw [State.takeRsp_phase, State.takeRsp_encBits]
  obtain ⟨-, rfl⟩ | ⟨-, ⟨v, d, hr, rfl⟩ | ⟨c, -, rfl⟩ | ⟨c, -, rfl⟩⟩ := State.command_next_cases hx <;> cases hw <;>
    rw [rspStatus_rspWord] at hst
  · exact absurd hst (RejectCode.bits_ne_statusOk _)
  · split at hr <;> cases hr
    exact ⟨rfl, rspData_rspWord ..⟩
  · exact absurd hst c.bits_ne_statusOk
  · exact absurd hst c.bits_ne_zero

/-- Reading all bytes of the output in DONE, where none has been read, gives the output. -/
theorem readBytes_outBytes (hp : s.phase = .done) (hr : s.rdptr = 0#40) (hc : s.outlen.toNat ≤ s.outcap.toNat) :
    ∃ q, readBytes (rdouts s.outlen.toNat) s = .ok s.outBytes ({ s with rdptr := s.outlen }.onPort q) := by
  obtain ⟨q, hq⟩ := readBytes_rdouts s.outlen.toNat hp (by simp [hr]) hc
  refine ⟨q, hq.trans ?_⟩
  simp [hr, State.outBytes]

/-- What the operation `encode` gives is what its command sequence leaves in DONE: the table, ENC_BITS and the output. -/
theorem hostEncode_ok {S : List Byte} {r : Encoded} (hi : s.Inv) (h : hostEncode S s = .ok r t) :
    ∃ v, runAll (encodeOp S) s = .next v ∧ v.phase = .done ∧
      r.table.present = v.tableItems ∧ r.dataBits = v.encBits ∧ r.packed = v.outBytes := by
  simp only [hostEncode, OpResult.andThen_ok] at h
  obtain ⟨ds, s₁, hfeed, d, s₂, hencf, table, s₃, htable, packed, s₄, hpacked, hr⟩ := h
  cases hr
  obtain ⟨hdone, rfl⟩ := ask_encf_ok hencf
  obtain ⟨q, hrun⟩ := askAll_runAll (askAll_concat hfeed hencf)
  have hend : (s₂.onPort q).EncodeDone S := runAll_encodeOp_done hi hrun hdone
  obtain ⟨q', hq'⟩ := readFreqTable_eq (s := s₂)
  cases hq'.symm.trans htable
  obtain ⟨q'', hq''⟩ := readBytes_outBytes (s := s₂.onPort q') hdone hend.rdptr hend.inv.bounds.2.1
  have hreads : readPacked s₂.encBits.toNat = rdouts s₂.outlen.toNat := congrArg rdouts hend.outlen.symm
  rw [hreads] at hpacked
  cases hq''.symm.trans hpacked
  exact ⟨_, hrun, hdone, present_eq_tableItems, rfl, rfl⟩

end Sys2Proof.Machine

namespace Sys2Proof.Machine

variable {s t u v : State}

/-! ## Commands that answer OK -/

/-- A command that answers OK leaves its state, but for the ports. -/
theorem ask_of_answers {i : Instr} {ph : Phase} {d : Data} (hx : exec i s = .next t)
    (h : s.Answers t (rspWord 0x00#8 ph d)) : ∃ q, ask i s = .ok d (t.onPort q) := by
  obtain ⟨q, hq⟩ := State.takeRsp_eq (s := t)
  refine ⟨q, hq ▸ ask_of_next (ph := ph) hx ?_⟩
  rw [h]
  rfl

theorem ask_of_respond {i : Instr} {d : Data} (hx : exec i s = .next (t.respond d)) :
    ∃ q, ask i s = .ok d (t.onPort q) := by
  obtain ⟨q, hq⟩ := State.takeRsp_eq (s := t.respond d)
  exact ⟨q, (ask_of_next (ph := t.phase) hx rfl).trans (by rw [hq]; rfl)⟩

theorem State.Inv.of_askAll {is : List Instr} {ds : List Data} (h : s.Inv) (ha : askAll is s = .ok ds t) : t.Inv := by
  obtain ⟨q, hq⟩ := askAll_runAll ha
  exact (h.of_runAll hq).of_onPort t.port

theorem State.Inv.of_ask {i : Instr} {d : Data} (h : s.Inv) (ha : ask i s = .ok d t) : t.Inv :=
  h.of_askAll (askAll_cons_ok.2 ⟨d, t, [], ha, askAll_nil, rfl⟩)

theorem askAll_outcap_eq {is : List Instr} {ds : List Data} (ha : askAll is s = .ok ds t) : t.outcap = s.outcap := by
  obtain ⟨q, hq⟩ := askAll_runAll ha
  exact runAll_outcap_eq (t := t.onPort q) hq

/-- A sequence whose responses are all OK, and one command more, whatever it answers. -/
theorem runAll_concat {is : List Instr} {i : Instr} {ds : List Data} (h : askAll is s = .ok ds t)
    (hx : exec i t = .next u) : ∃ q, runAll (is ++ [i]) s = .next (u.onPort q) := by
  obtain ⟨p, hp⟩ := askAll_runAll h
  obtain ⟨q, hq⟩ := runAll_onPort (is := [i]) (t := u) (runAll_cons_next.2 ⟨u, hx, rfl⟩) p
  exact ⟨q, runAll_append_next.2 ⟨_, hp, hq⟩⟩

/-! ## Loading a frequency table -/

/-- Counts that are nowhere above others have no greater sum. -/
theorem State.freqSum_le (h : ∀ y, (s.freqAt y).toNat ≤ (t.freqAt y).toNat) : s.freqSum ≤ t.freqSum :=
  List.sum_le_sum fun _ _ => h _

/-- On the way to the table of `t`: in IDLE, with every count at most that of `t`. -/
structure State.Loading (t s : State) : Prop where
  inv : s.Inv
  phase : s.phase = .idle
  le : ∀ y, (s.freqAt y).toNat ≤ (t.freqAt y).toNat

/-- FSET of a count of `t` answers OK, as the new total is at most that of `t`. -/
theorem State.Loading.ask_fset (h : t.Loading s) (ht : t.TotalOk) (y : Byte) :
    ∃ d v, ask (.fset y (t.freqAt y)) s = .ok d v ∧ t.Loading v ∧ v.freqAt y = t.freqAt y ∧
      ∀ x, x ≠ y → v.freqAt x = s.freqAt x := by
  have hle : ∀ x, ((s.setFreq y (t.freqAt y)).freqAt x).toNat ≤ (t.freqAt x).toNat := fun x => by
    by_cases hx : x = y
    · rw [hx, State.freqAt_setFreq_same h.inv.mem.1]
    · rw [State.freqAt_setFreq_other hx]
      exact h.le x
  have hroom : s.total.toNat - (s.freqAt y).toNat + (t.freqAt y).toNat ≤ 2 ^ 32 - 1 := by
    have hnew := State.freqSum_le hle
    have hset := State.freqSum_setFreq h.inv.mem.1 y (t.freqAt y)
    have hs : s.total.toNat = s.freqSum := h.inv.total
    have ht : t.total.toNat = t.freqSum := ht
    have hold := s.freqAt_le_freqSum y
    omega
  obtain ⟨w, hx, hsame, hother, -, hframe, hans⟩ :=
    fsetSetsTheCount s y (t.freqAt y) h.inv.mem h.inv.total h.phase hroom
  obtain ⟨q, hq⟩ := ask_of_answers hx hans
  have hphase : w.phase = .idle := by rw [hframe]; exact h.phase
  refine ⟨_, _, hq, ⟨h.inv.of_ask hq, hphase, fun x => ?_⟩, hsame, hother⟩
  change (w.freqAt x).toNat ≤ _
  by_cases hx : x = y
  · rw [hx, hsame]
  · rw [hother x hx]
    exact h.le x

/-- FLOAD of counts of `t` answers OK, and then the loaded symbols have these counts, with those that had them before. -/
theorem State.Loading.askAll_fload (h : t.Loading s) (ht : t.TotalOk) (syms : List Byte) :
    ∃ ds v, askAll (fload (syms.map fun y => (y, t.freqAt y))) s = .ok ds v ∧ t.Loading v ∧
      ∀ y, y ∈ syms ∨ s.freqAt y = t.freqAt y → v.freqAt y = t.freqAt y := by
  induction syms generalizing s with
  | nil => exact ⟨[], s, rfl, h, fun y hy => hy.resolve_left List.not_mem_nil⟩
  | cons x syms ih =>
    obtain ⟨d, w, hw, hload, hsame, hother⟩ := h.ask_fset ht x
    obtain ⟨ds, v, hv, hload', hall⟩ := ih hload
    refine ⟨d :: ds, v, askAll_cons_ok.2 ⟨d, w, ds, hw, hv, rfl⟩, hload', fun y hy => hall y ?_⟩
    by_cases hyx : y = x
    · exact .inr (hyx ▸ hsame)
    · exact hy.imp (fun hmem => (List.mem_cons.1 hmem).resolve_left hyx) (hother y hyx).trans

/-! ## Opening a decode session -/

/-- A decode session over the table of `t` with its ENC_BITS as DEC_TARGET, in which no bit has been taken (R200). -/
structure State.Opened (t s : State) : Prop where
  inv : s.Inv
  phase : s.phase = .decoding
  freq : ∀ y, s.freqAt y = t.freqAt y
  target : s.decTarget = t.encBits
  consumed : s.decConsumed = 0#40
  walk : s.walk = s.root
  outlen : s.outlen = 0#40
  rdptr : s.rdptr = 0#40

/-- BUILD and DECS after FLOAD of the table of `t` open its decode session. -/
theorem State.Loading.askAll_open (h : t.Loading s) (hf : ∀ y, s.freqAt y = t.freqAt y) :
    ∃ ds v, askAll [.build, .decs t.encBits] s = .ok ds v ∧ t.Opened v := by
  obtain ⟨p, hp⟩ := ask_of_respond (exec_build_idle h.phase)
  have hb := h.inv.of_ask hp
  obtain ⟨-, -, -, -, -, hlen, hrd, -⟩ := hb.session.1 (.inr (.inl rfl))
  have hx := (decsOpensASession (s.withTree.onPort p) t.encBits).1 (.inl rfl)
  obtain ⟨q, hq⟩ := ask_of_answers hx rfl
  refine ⟨_, _, askAll_cons_ok.2 ⟨_, _, _, hp, askAll_cons_ok.2 ⟨_, _, [], hq, askAll_nil, rfl⟩, rfl⟩, ?_⟩
  exact ⟨hb.of_ask hq, rfl, hf, rfl, rfl, rfl, hlen, hrd⟩

/-- `decode` before the packed bytes: CLR, the table, BUILD and DECS (R226). -/
theorem askAll_open (hu : u.Inv) (ht : t.TotalOk) :
    ∃ ds v, askAll ([.clr] ++ fload t.tableItems ++ [.build, .decs t.encBits]) u = .ok ds v ∧ t.Opened v := by
  obtain ⟨p, hp⟩ := ask_of_respond (i := .clr) (s := u) (t := u.clearAll) rfl
  obtain ⟨ds, w, hw, hload, hall⟩ :=
    State.Loading.askAll_fload (s := u.clearAll.onPort p) ⟨hu.of_ask hp, rfl, fun _ => Nat.zero_le _⟩ ht t.presentSyms
  have hfreq : ∀ y, w.freqAt y = t.freqAt y := fun y => hall y <| by
    by_cases hy : t.freqAt y = 0#32
    · exact .inr hy.symm
    · exact .inl (State.mem_presentSyms.2 hy)
  obtain ⟨ds', v, hv, hopen⟩ := hload.askAll_open hfreq
  exact ⟨_, v, askAll_append_ok.2 ⟨_, w, _, askAll_cons_ok.2 ⟨_, _, _, hp, hw, rfl⟩, hv, rfl⟩, hopen⟩

/-! ## The same table gives the same walk -/

section
variable (hs : s.TreeOk) (ht : t.TreeOk) (hsn : s.shape ≠ .none) (htn : t.shape ≠ .none)
  (hf : ∀ y, s.freqAt y = t.freqAt y)
include hs ht hsn htn hf

theorem State.TreeOk.shape_eq : s.shape = t.shape := by
  rw [(hs.2 hsn).1, (ht.2 htn).1, State.seedLeaves_congr hf]

theorem State.TreeOk.root_eq : s.root = t.root :=
  BitVec.eq_of_toNat_eq (by rw [(hs.2 hsn).2.2.2.1, (ht.2 htn).2.2.2.1, State.treeArena_congr hf])

theorem State.TreeOk.nodeEntry_eq {k : Nat} (hk : k < s.nnodes.toNat) : s.nodeEntry k = t.nodeEntry k := by
  have hk' : k < t.nnodes.toNat := by
    rwa [(ht.2 htn).2.2.1, ← State.treeArena_congr hf, ← (hs.2 hsn).2.2.1]
  have hentry := hs.getElem? hk
  rw [State.treeArena_congr hf, ht.getElem? hk'] at hentry
  exact (Option.some.inj hentry).symm

/-- A walk of a tree depends on the table alone (R146 item 5, R206). -/
theorem State.TreeOk.walkBits_eq (ha : s.shape ≠ .absent) {i : NodeIdx} (hi : i.toNat < s.nnodes.toNat)
    (bits : List Bool) : s.walkBits i bits = t.walkBits i bits := by
  induction bits generalizing i with
  | nil => rfl
  | cons bit bits ih =>
    have hnext : (s.follow i bit).toNat < s.nnodes.toNat := hs.child_lt hi bit
    have hfollow : s.follow i bit = t.follow i bit := by
      rw [State.follow, State.follow, hs.nodeEntry_eq ht hsn htn hf hi]
    rw [State.walkBits, State.walkBits, ih (hs.root_lt hsn ha), ih hnext, ← hfollow,
      hs.nodeEntry_eq ht hsn htn hf hnext, hs.root_eq ht hsn htn hf]

end

/-! ## The tree of a single leaf as a walk -/

/-- A tree of a single leaf is the leaf, at ROOT. -/
theorem State.TreeOk.single_leaf (h : s.TreeOk) (hs : s.shape = .single) :
    s.root = 0#9 ∧ ∃ sym w, s.nodeEntry 0 = Node.ofLeaf sym w := by
  obtain ⟨hshape, -, -, hroot, hentry⟩ := h.2 (by simp [hs])
  have hone : s.seedLeaves.length = 1 := by
    rw [hs, Shape.ofLeaves_eq_ite] at hshape
    split at hshape
    · cases hshape
    · split at hshape
      · assumption
      · cases hshape
  have hlen : s.treeArena.length = 1 := by rw [State.treeArena_length_eq, hone]
  have hleaf := hentry 0 (by omega)
  rw [State.treeArena_getElem?_leaf (by omega)] at hleaf
  exact ⟨BitVec.eq_of_toNat_eq (by simp [hroot, hlen]),
    State.eq_ofLeaf_of_mem_seedLeaves (List.mem_of_getElem? hleaf)⟩

/-- With a single leaf a walk puts out its symbol for each bit (R203): both children of a leaf are read as ROOT. -/
theorem State.TreeOk.walkBits_single (h : s.TreeOk) (hs : s.shape = .single) (bits : List Bool) :
    s.walkBits s.root bits = (List.replicate bits.length (s.nodeEntry 0).sym, s.root) := by
  obtain ⟨hroot, sym, w, hleaf⟩ := h.single_leaf hs
  have hfollow : ∀ bit, s.follow s.root bit = 0#9 := fun bit => by
    rw [State.follow, hroot]
    cases bit <;> exact congrArg (Node.child · _) hleaf
  have hread : (s.nodeEntry (0#9).toNat).leaf = true := congrArg Node.leaf hleaf
  induction bits with
  | nil => rfl
  | cons bit bits ih =>
    rw [State.walkBits, hfollow, if_pos hread, ih]
    rfl

end Sys2Proof.Machine

namespace Sys2Proof.Machine

variable {s t u v : State}

/-! ## Walking the codes of a sequence, whatever the tree -/

/-- A coded symbol has its code from a general tree, or it is the single leaf's and the code is one 0 (R162). -/
theorem State.Inv.coded_cases (h : s.Inv) (hcv : s.cv = true) {x : Byte} (hne : s.clenAt x ≠ 0#8) :
    s.shape = .general ∨ (s.shape = .single ∧ x = (s.nodeEntry 0).sym ∧ s.codeOf x = [false]) := by
  obtain ⟨codes, hcodes, hclen, hcbits⟩ := h.codes hcv
  obtain ⟨e, he, rfl, hlen, hbits⟩ | ⟨-, hlen, -⟩ := codeTable_cases codes x
  · rw [← hclen] at hlen
    rw [← hcbits] at hbits
    unfold State.treeCodes at hcodes
    split at hcodes
    · cases hcodes
      rw [List.mem_singleton] at he
      subst he
      refine .inr ⟨‹_›, rfl, ?_⟩
      rw [State.codeOf, State.clenAt, State.cbitsAt, hlen, hbits]
      exact (by decide : lowBits 0#255 1 = [false])
    · exact .inl ‹_›
    all_goals
      cases hcodes
      cases he
  · rw [State.clenAt, hclen] at hne
    exact absurd hlen hne

/-- A symbol's code takes the walk from ROOT to the symbol and back (R163 item 5, R203). -/
theorem State.Inv.walkBits_codeOf (h : s.Inv) (hcv : s.cv = true) {x : Byte} (hne : s.clenAt x ≠ 0#8) :
    s.walkBits s.root (s.codeOf x) = ([x], s.root) := by
  obtain hg | ⟨hs, hx, hcode⟩ := h.coded_cases hcv hne
  · obtain ⟨codes, hcodes⟩ := h.coded hcv hg
    exact hcodes.walkBits_codeOf hne
  · rw [hcode, h.tree.walkBits_single hs, ← hx]
    rfl

/-- And so do the codes of a sequence, one after the other (R206). -/
theorem State.Inv.walkBits_codes (h : s.Inv) (hcv : s.cv = true) {S : List Byte} (hS : ∀ x ∈ S, s.clenAt x ≠ 0#8) :
    s.walkBits s.root (S.flatMap s.codeOf) = (S, s.root) := by
  induction S with
  | nil => rfl
  | cons x S ih =>
    obtain ⟨hx, hS⟩ := List.forall_mem_cons.1 hS
    rw [List.flatMap_cons, State.walkBits_append, h.walkBits_codeOf hcv hx, ih hS]
    rfl

/-- Fewer bits put out a beginning of what more bits put out. -/
theorem State.walkBits_prefix {xs ys : List Bool} (h : xs <+: ys) (i : NodeIdx) :
    (s.walkBits i xs).1 <+: (s.walkBits i ys).1 := by
  obtain ⟨zs, rfl⟩ := h
  rw [State.walkBits_append]
  exact List.prefix_append ..

/-! ## DECB of the packed bytes -/

@[simp] theorem State.walkBits_onPort (s : State) (p : Port) : (s.onPort p).walkBits = s.walkBits :=
  funext fun i => funext (State.walkBits_congr (s := s) (t := s.onPort p) rfl rfl i)

/-- A walk does not look at the ports. -/
theorem State.Walks.of_onPort {p : Port} {bits : List Bool} (h : (s.onPort p).Walks bits t) :
    s.Walks bits (t.onPort s.port) where
  grows := ⟨h.grows.wf, h.grows.le, h.grows.outside⟩
  bytes := h.bytes.trans (by rw [s.walkBits_onPort]; rfl)
  walk := h.walk.trans (by rw [s.walkBits_onPort]; rfl)
  consumed := h.consumed
  frame := congrArg (State.onPort · s.port) h.frame

/-- The symbols of a single leaf are those of its walk. -/
theorem State.Repeats.walks {bits : List Bool} (h : s.Repeats bits.length t) (hi : s.Inv) (hs : s.shape = .single)
    (hp : s.phase = .decoding) : s.Walks bits t := by
  have hroot : s.walk = s.root := hi.walk.2 hp (by simp [hs])
  have hwalk := hi.tree.walkBits_single hs bits
  rw [← hroot] at hwalk
  have hframe := h.frame
  have hsame : t.walk = s.walk := by rw [hframe]
  refine ⟨h.grows, by rw [hwalk]; exact h.bytes, by rw [hwalk]; exact hsame, h.consumed, ?_⟩
  rw [hsame]
  exact hframe

/-- A byte whose walk puts out no more than fits is unpacked, general tree or single leaf. -/
theorem State.Inv.unpackByte_walks (hi : s.Inv) (hp : s.phase = .decoding) (ha : s.shape ≠ .absent) (b : Byte)
    (hroom : s.outlen.toNat + (s.walkBits s.walk (s.bitsLeft b 8)).1.length ≤ s.outcap.toNat) :
    ∃ t, unpackByte b 8 s = .ok t ∧ s.Walks (s.bitsLeft b 8) t := by
  obtain ⟨-, -, -, -, hwf⟩ := hi.mem
  have hn : s.shape ≠ .none := hi.phase.2.2.2.1 (by simp [hp]) (by simp [hp])
  by_cases hg : s.shape = .general
  · exact ((hi.unpackSafe hp ha).unpackByte_walks hwf hg b 8).resolve_right fun ⟨_, hfull⟩ =>
      absurd hfull (Nat.not_lt.2 hroom)
  · have hs : s.shape = .single := by cases hsh : s.shape <;> simp_all
    have hlen : (s.bitsLeft b 8).length = min 8 (s.decTarget.toNat - s.decConsumed.toNat) := by
      rw [State.bitsLeft, List.length_take, lowBits_length, Nat.min_comm]
    rw [hi.walk.2 hp hg, hi.tree.walkBits_single hs, List.length_replicate, hlen] at hroom
    obtain ⟨t, ht, h⟩ := unpackByte_single hwf hs b hroom
    rw [← hlen] at h
    exact ⟨t, ht, h.walks hi hs hp⟩

/-- The bits of bytes that the unpacker consumes: those below DEC_TARGET. -/
def State.streamLeft (s : State) (P : List Byte) : List Bool :=
  (bitsOfBytes P).take (s.decTarget.toNat - s.decConsumed.toNat)

/-- The first byte's bits are consumed, and then those that the state after it has left. -/
theorem State.Walks.streamLeft_cons {b : Byte} (h : s.Walks (s.bitsLeft b 8) t) (P : List Byte) :
    s.streamLeft (b :: P) = s.bitsLeft b 8 ++ t.streamLeft P := by
  have htarget : t.decTarget = s.decTarget := by rw [h.frame]
  have hcons := h.consumed
  simp only [State.bitsLeft, List.length_take, lowBits_length] at hcons
  have hleft : s.decTarget.toNat - s.decConsumed.toNat - 8 = t.decTarget.toNat - t.decConsumed.toNat := by
    rw [htarget, hcons]
    omega
  rw [State.streamLeft, State.streamLeft, ← hleft, bitsOfBytes, List.flatMap_cons, List.take_append, lowBits_length]
  rfl

/-- DECB for each byte of a stream whose walk puts out no more than fits. -/
theorem State.Inv.askAll_decbs {P : List Byte} (hi : s.Inv) (hp : s.phase = .decoding)
    (ha : P ≠ [] → s.shape ≠ .absent)
    (hroom : s.outlen.toNat + (s.walkBits s.walk (s.streamLeft P)).1.length ≤ s.outcap.toNat) :
    ∃ ds q v, askAll (decbs P) s = .ok ds (v.onPort q) ∧ s.Walks (s.streamLeft P) v := by
  induction P generalizing s with
  | nil =>
    obtain ⟨-, -, -, -, hwf⟩ := hi.mem
    refine ⟨[], s.port, s, rfl, ?_⟩
    rw [State.streamLeft, bitsOfBytes, List.flatMap_nil, List.take_nil]
    exact .refl hwf
  | cons b P ih =>
    have hne := ha (List.cons_ne_nil b P)
    have hfirst : s.bitsLeft b 8 <+: s.streamLeft (b :: P) := by
      rw [State.bitsLeft, State.streamLeft, bitsOfBytes, List.flatMap_cons]
      exact (List.prefix_append ..).take _
    have hle := (State.walkBits_prefix (s := s) hfirst s.walk).length_le
    obtain ⟨t, ht, hbyte⟩ := hi.unpackByte_walks hp hne b (by omega)
    obtain ⟨p, hp'⟩ := ask_of_respond (exec_decb_of_unpackByte hp hne ht)
    have hcap : t.outcap = s.outcap := by rw [hbyte.frame]
    rw [hbyte.streamLeft_cons] at hroom ⊢
    have hsplit : (s.walkBits s.walk (s.bitsLeft b 8 ++ t.streamLeft P)).1.length =
        (s.walkBits s.walk (s.bitsLeft b 8)).1.length + (t.walkBits t.walk (t.streamLeft P)).1.length := by
      rw [State.walkBits_append, List.length_append, hbyte.walkBits_eq, hbyte.walk]
    have hroom' : t.outlen.toNat + (t.walkBits t.walk (t.streamLeft P)).1.length ≤ t.outcap.toNat := by
      rw [hcap, hbyte.outlen, Nat.add_assoc, ← hsplit]
      exact hroom
    obtain ⟨ds, q, v, hv, hrest⟩ := ih (s := t.onPort p) (hi.of_ask hp') (by rw [hbyte.frame]; exact hp)
      (fun _ => by rw [hbyte.frame]; exact hne) (by rw [t.walkBits_onPort]; exact hroom')
    exact ⟨_, q, v.onPort t.port, askAll_cons_ok.2 ⟨_, _, ds, hp', hv, rfl⟩, hbyte.trans hrest.of_onPort⟩

end Sys2Proof.Machine

namespace Sys2Proof.Machine

variable {s t u v : State} {S P : List Byte}

/-! ## Decoding what an encode left -/

theorem length_bitsOfBytes (bytes : List Byte) : (bitsOfBytes bytes).length = 8 * bytes.length := by
  induction bytes with
  | nil => rfl
  | cons b bytes ih =>
    rw [bitsOfBytes, List.flatMap_cons, List.length_append, lowBits_length, List.length_cons]
    rw [bitsOfBytes] at ih
    omega

/-- The packed bytes begin with ENC_BITS bits of codes. -/
theorem State.EncodeDone.take_bits (h : t.EncodeDone S) :
    (bitsOfBytes t.outBytes).take t.encBits.toNat = S.flatMap t.codeOf := by
  rw [h.count]
  exact (List.prefix_iff_eq_take.1 h.bits).symm

/-- A beginning of the packed bytes begins with bits of codes. -/
theorem State.EncodeDone.take_prefix (h : t.EncodeDone S) (hP : P <+: t.outBytes) :
    (bitsOfBytes P).take t.encBits.toNat <+: S.flatMap t.codeOf :=
  h.take_bits ▸ (hP.flatMap _).take _

/-- The codes take the walk to the sequence and back to ROOT. -/
theorem State.EncodeDone.walkBits_codes (h : t.EncodeDone S) :
    t.walkBits t.root (S.flatMap t.codeOf) = (S, t.root) :=
  h.inv.walkBits_codes h.cv h.coded

theorem State.EncodeDone.shape_ne_none (h : t.EncodeDone S) : t.shape ≠ .none :=
  h.inv.phase.2.2.2.2 h.cv

/-- Where a byte was packed a symbol has a code, and so the tree is not absent. -/
theorem State.EncodeDone.shape_ne_absent (h : t.EncodeDone S) (hne : t.outBytes ≠ []) : t.shape ≠ .absent := by
  have hS : S ≠ [] := fun h0 => hne <| List.length_eq_zero_iff.1 <| by
    rw [State.outBytes_length, h.outlen, h.count, h0, List.flatMap_nil]
    rfl
  obtain ⟨x, hx⟩ := List.exists_mem_of_ne_nil S hS
  obtain hg | ⟨hs, -⟩ := h.inv.coded_cases h.cv (h.coded x hx)
  · simp [hg]
  · simp [hs]

/-- `v` is where a decode of what `t` holds stands after the bytes `P`: the walk has taken their bits up to ENC_BITS and
put its symbols out (R201). -/
structure State.Decoded (t : State) (P : List Byte) (v : State) : Prop where
  inv : v.Inv
  phase : v.phase = .decoding
  shape : v.shape = t.shape
  root : v.root = t.root
  rdptr : v.rdptr = 0#40
  target : v.decTarget = t.encBits
  consumed : v.decConsumed.toNat = ((bitsOfBytes P).take t.encBits.toNat).length
  out : (v.outBytes, v.walk) = t.walkBits t.root ((bitsOfBytes P).take t.encBits.toNat)

theorem State.Opened.shape_ne_none (ho : t.Opened s) : s.shape ≠ .none :=
  ho.inv.phase.2.2.2.1 (by simp [ho.phase]) (by simp [ho.phase])

theorem State.Opened.streamLeft_eq (ho : t.Opened s) (P : List Byte) :
    s.streamLeft P = (bitsOfBytes P).take t.encBits.toNat := by
  rw [State.streamLeft, ho.target, ho.consumed]
  rfl

/-- A decode session over the table of an encode has the encode's ROOT. -/
theorem State.Opened.root_eq (ho : t.Opened s) (h : t.EncodeDone S) : s.root = t.root :=
  ho.inv.tree.root_eq h.inv.tree ho.shape_ne_none h.shape_ne_none ho.freq

theorem State.Opened.shape_eq (ho : t.Opened s) (h : t.EncodeDone S) : s.shape = t.shape :=
  ho.inv.tree.shape_eq h.inv.tree ho.shape_ne_none h.shape_ne_none ho.freq

/-- And it walks the encode's tree. -/
theorem State.Opened.walkBits_streamLeft (ho : t.Opened s) (h : t.EncodeDone S) (ha : P ≠ [] → s.shape ≠ .absent) :
    s.walkBits s.walk (s.streamLeft P) = t.walkBits t.root ((bitsOfBytes P).take t.encBits.toNat) := by
  have hsn := ho.shape_ne_none
  rw [ho.walk, ho.streamLeft_eq, ← ho.root_eq h]
  by_cases hP : P = []
  · rw [hP, bitsOfBytes, List.flatMap_nil, List.take_nil]
    rfl
  · have hroot := ho.inv.tree.root_lt hsn (ha hP)
    exact ho.inv.tree.walkBits_eq h.inv.tree hsn h.shape_ne_none ho.freq (ha hP) hroot _

/-- Where the walk of the session has taken the bits of `P`. -/
theorem State.Opened.decoded {q : Port} (ho : t.Opened s) (h : t.EncodeDone S) (ha : P ≠ [] → s.shape ≠ .absent)
    (hw : s.Walks (s.streamLeft P) v) (hi : (v.onPort q).Inv) : t.Decoded P (v.onPort q) := by
  have hsame : v.phase = s.phase ∧ v.shape = s.shape ∧ v.root = s.root ∧ v.rdptr = s.rdptr ∧
      v.decTarget = s.decTarget := by
    rw [hw.frame]
    simp
  obtain ⟨hphase, hshape, hroot, hrdptr, htarget⟩ := hsame
  have hnone : s.outBytes = [] := List.length_eq_zero_iff.1 (by rw [State.outBytes_length, ho.outlen]; rfl)
  have hcount : v.decConsumed.toNat = ((bitsOfBytes P).take t.encBits.toNat).length := by
    rw [hw.consumed, ho.consumed, ho.streamLeft_eq, BitVec.toNat_zero, Nat.zero_add]
  have hout : (v.outBytes, v.walk) = t.walkBits t.root ((bitsOfBytes P).take t.encBits.toNat) := by
    rw [hw.bytes, hw.walk, hnone, ho.walkBits_streamLeft h ha, List.nil_append]
  exact ⟨hi, hphase.trans ho.phase, hshape.trans (ho.shape_eq h), hroot.trans (ho.root_eq h), hrdptr.trans ho.rdptr,
    htarget.trans ho.target, hcount, hout⟩

/-- `decode` of the table, ENC_BITS and a beginning of the packed bytes of an encode answers OK up to DECF, in a part
whose OUTBUF holds the sequence (R226): what is put out is a beginning of it. -/
theorem State.EncodeDone.askAll_decodeFeed (h : t.EncodeDone S) (hu : u.Inv) (hroom : S.length ≤ u.outcap.toNat)
    (hP : P <+: t.outBytes) : ∃ ds v, askAll (decodeFeed t.tableItems t.encBits P) u = .ok ds v ∧ t.Decoded P v := by
  obtain ⟨ds, s, hs, ho⟩ := askAll_open hu h.inv.total
  have ha : P ≠ [] → s.shape ≠ .absent := fun hne =>
    ho.shape_eq h ▸ h.shape_ne_absent fun h0 => hne (List.prefix_nil.1 (h0 ▸ hP))
  have hle : (s.walkBits s.walk (s.streamLeft P)).1.length ≤ S.length := by
    have hpre := (State.walkBits_prefix (s := t) (h.take_prefix hP) t.root).length_le
    rwa [h.walkBits_codes, ← ho.walkBits_streamLeft h ha] at hpre
  have hfits : s.outlen.toNat + (s.walkBits s.walk (s.streamLeft P)).1.length ≤ s.outcap.toNat := by
    rw [askAll_outcap_eq hs, ho.outlen, BitVec.toNat_zero, Nat.zero_add]
    exact hle.trans hroom
  obtain ⟨ds', q, v, hv, hw⟩ := ho.inv.askAll_decbs ho.phase ha hfits
  exact ⟨_, v.onPort q, askAll_append_ok.2 ⟨ds, s, ds', hs, hv, rfl⟩, ho.decoded h ha hw (ho.inv.of_askAll hv)⟩

/-! ## The round trip -/

/-- After all the packed bytes the sequence is out and the walk is back at ROOT, so DECF succeeds (R206). -/
theorem State.EncodeDone.exec_decf_done (h : t.EncodeDone S) (hv : t.Decoded t.outBytes v) :
    exec .decf v = .next (State.respond { v with phase := .done } v.outlen) ∧ v.outBytes = S := by
  have hout := hv.out
  have hcount := hv.consumed
  rw [h.take_bits, h.walkBits_codes] at hout
  rw [h.take_bits, ← h.count, ← hv.target] at hcount
  obtain ⟨hS, hwalk⟩ := Prod.mk.inj hout
  refine ⟨?_, hS⟩
  by_cases ha : v.shape = .absent
  · exact (absentTreeDecodesToNothing v 0#8 hv.phase ha).2
  · exact (decfChecksTheEnd v hv.phase ha).2.2 hcount.ge fun _ => hwalk.trans hv.root.symm

/-- Settles O44: what an encode leaves in DONE (`runAll_encodeOp_done`) is decoded to the sequence up to DECF
(`State.EncodeDone.askAll_decodeFeed`), and the operations give and take just that (`hostEncode_ok`). -/
theorem decodeOfEncodeIsTheSequence : Obligations.DecodeOfEncodeIsTheSequence := by
  intro s u S hs hu _ hroom
  refine ⟨fun t hrun hdone => ?_, fun r t' hr => ?_⟩
  · have h := runAll_encodeOp_done hs hrun hdone
    obtain ⟨ds, v, hv, hdec⟩ := h.askAll_decodeFeed hu hroom (List.prefix_refl _)
    obtain ⟨hx, hS⟩ := h.exec_decf_done hdec
    obtain ⟨q, hq⟩ := runAll_concat hv hx
    exact ⟨_, hq, rfl, hS⟩
  · obtain ⟨t, hrun, hdone, htable, hbits, hpacked⟩ := hostEncode_ok hs hr
    have h := runAll_encodeOp_done hs hrun hdone
    obtain ⟨ds, v, hv, hdec⟩ := h.askAll_decodeFeed hu hroom (List.prefix_refl _)
    obtain ⟨hx, rfl⟩ := h.exec_decf_done hdec
    obtain ⟨p, hp⟩ := ask_of_respond hx
    obtain ⟨q, hq⟩ := readBytes_outBytes (s := State.onPort { v with phase := .done } p) rfl hdec.rdptr
      hdec.inv.bounds.2.1
    rw [hostDecode, htable, hbits, hpacked]
    exact ⟨_, OpResult.andThen_ok.2 ⟨ds, v, hv, OpResult.andThen_ok.2 ⟨_, _, hp, hq⟩⟩⟩

/-! ## A truncated stream -/

/-- After fewer than all the packed bytes fewer than ENC_BITS bits are consumed, so DECF ends in E_DEC_SHORT (R202). -/
theorem State.EncodeDone.exec_decf_short (h : t.EncodeDone S) (hP : P <+: t.outBytes) (hne : P ≠ t.outBytes)
    (hv : t.Decoded P v) : exec .decf v = .next (v.Failed 0x10#8) := by
  have hlen : P.length < t.outBytes.length := hP.length_le.lt_of_ne fun heq => hne (hP.eq_of_length heq)
  have hpacked : t.outBytes ≠ [] := List.ne_nil_of_length_pos (Nat.zero_lt_of_lt hlen)
  have hcount := hv.consumed
  rw [t.outBytes_length, h.outlen] at hlen
  rw [List.length_take, length_bitsOfBytes] at hcount
  refine (decfChecksTheEnd v hv.phase (hv.shape ▸ h.shape_ne_absent hpacked)).1 ?_
  rw [hv.target]
  omega

/-- Settles O45: as in the round trip up to DECF, which finds bits missing (`State.EncodeDone.exec_decf_short`). -/
theorem truncatedStreamIsShort : Obligations.TruncatedStreamIsShort := by
  intro s u S P hs hu _ hroom
  refine ⟨fun t hrun hdone hP hne => ?_, fun r t' hr hP hne => ?_⟩
  · have h := runAll_encodeOp_done hs hrun hdone
    obtain ⟨ds, v, hv, hdec⟩ := h.askAll_decodeFeed hu hroom hP
    obtain ⟨q, hq⟩ := runAll_concat hv (h.exec_decf_short hP hne hdec)
    exact ⟨_, hq, rfl, rfl, rfl⟩
  · obtain ⟨t, hrun, hdone, htable, hbits, hpacked⟩ := hostEncode_ok hs hr
    have h := runAll_encodeOp_done hs hrun hdone
    rw [hpacked] at hP hne
    obtain ⟨ds, v, hv, hdec⟩ := h.askAll_decodeFeed hu hroom hP
    have hshort := ask_of_error (h.exec_decf_short hP hne hdec) rfl (by decide)
    refine ⟨(v.Failed 0x10#8).takeRsp, ?_⟩
    rw [hostDecode, htable, hbits, hv, OpResult.andThen, hshort]
    rfl

end Sys2Proof.Machine

namespace Sys2Proof.Machine

/-! ## CLR and reset -/

/-- What `clearAll` keeps besides OUTCAP and the ports is in NODE, CLEN, CBITS and OUTBUF, where no entry is valid at
NNODES = 0, CV = 0 and OUTLEN = 0 (R271). -/
theorem State.clearAll_sameVisible_reset (s : State) :
    s.clearAll.SameVisible { State.reset with outcap := s.outcap, port := s.port } where
  rest := rfl
  node k hk := absurd hk (Nat.not_lt_zero k)
  codes hcv := absurd hcv Bool.false_ne_true
  out k hk := absurd hk (Nat.not_lt_zero k)

/-- Settles O54: `State.clearAll` and reset agree on what is visible, and so they do after the same response. -/
theorem clrLooksLikeReset : Obligations.ClrLooksLikeReset := by
  intro s t hx
  obtain rfl : s.clearAll.respond 0#40 = t := Host.Outcome.next.inj hx
  exact s.clearAll_sameVisible_reset.of_respond 0#40

end Sys2Proof.Machine

namespace Sys2Proof.Machine

variable {i : Instr} {s t u : State} {r : Word}

/-! ## Errors -/

/-- The codes of the rejections are those from 0x80 on (R241). -/
theorem RejectCode.le_bits (c : RejectCode) : 0x80#8 ≤ c.bits := by
  cases c <;> decide

/-- The codes of the fatal errors are below the rejections' (R241). -/
theorem FatalCode.bits_lt (c : FatalCode) : c.bits < 0x80#8 := by
  cases c <;> decide

/-- `exec_next_cases` told by the STATUS of the response: OK and an effect; or a rejection's; or a fatal error's, which no
command in ERROR answers. -/
theorem exec_status_cases (hx : exec i s = .next t) (hw : t.port.rsp = some r) :
    (rspStatus r = 0x00#8 ∧ ∃ u d, Effect i s u ∧ t = u.respond d) ∨
      (0x80#8 ≤ rspStatus r ∧ t = s.Rejected (rspStatus r)) ∨
      (rspStatus r < 0x80#8 ∧ s.phase ≠ .error ∧ t = s.Failed (rspStatus r)) := by
  obtain ⟨u, d, he, rfl⟩ | ⟨c, rfl⟩ | ⟨c, hp, rfl⟩ := exec_next_cases hx <;> cases hw <;> rw [rspStatus_rspWord]
  · exact .inl ⟨rfl, u, d, he, rfl⟩
  · exact .inr (.inl ⟨c.le_bits, rfl⟩)
  · exact .inr (.inr ⟨c.bits_lt, hp, rfl⟩)

/-- Settles O48: a status between OK and the rejections' is a fatal error's. -/
theorem fatalErrorIsPrecise : Obligations.FatalErrorIsPrecise := by
  intro i s t r hx hw hpos hlt
  obtain ⟨hok, -⟩ | ⟨hge, -⟩ | ⟨-, -, ht⟩ := exec_status_cases hx hw
  · exact absurd hok.symm (BitVec.ne_of_lt hpos)
  · exact absurd hlt (BitVec.not_lt.2 hge)
  · exact ht

/-- Settles O49: a status from 0x80 on is a rejection's. -/
theorem rejectionChangesNothing : Obligations.RejectionChangesNothing := by
  intro i s t r hx hw hge
  obtain ⟨hok, -⟩ | ⟨-, ht⟩ | ⟨hlt, -, -⟩ := exec_status_cases hx hw
  · exact absurd (hok ▸ hge) (by decide)
  · exact ht
  · exact absurd hlt (BitVec.not_lt.2 hge)

/-- Of the commands legal in ERROR (R89) only SESS and CLR change any state; the effects of the others carry a phase that
is not ERROR. -/
theorem Effect.eq_of_error (he : Effect i s u) (hp : s.phase = .error) : u = s ∨ i = .sess ∨ i = .clr := by
  cases he with
  | nop | rdreg | rdfreq | rdnode | rdcode => exact .inl rfl
  | sess => exact .inr (.inl rfl)
  | clr => exact .inr (.inr rfl)
  | _ => simp_all

/-- Settles O50: an answer of OK has the effect of a command legal in ERROR (`Effect.eq_of_error`), a rejection changes
nothing, and no fatal error is raised there. -/
theorem errorIsLeftOnlyBySessAndClr : Obligations.ErrorIsLeftOnlyBySessAndClr := by
  intro i s t r hp hx hw
  obtain ⟨hok, u, d, he, rfl⟩ | ⟨hge, rfl⟩ | ⟨-, hne, -⟩ := exec_status_cases hx hw
  · exact ⟨fun hleft => (he.eq_of_error hp).resolve_left fun hu => hleft (hu ▸ hp), .inl hok⟩
  · exact ⟨fun hleft => absurd hp hleft, .inr ⟨hge, rfl⟩⟩
  · exact absurd hp hne

end Sys2Proof.Machine
